-- ==== Sys2Proof/Word.lean ====
section
/-! DEFINITION. The widths of the block's values (spec/00_scope.md R6, R7). -/

namespace Sys2Proof

/-- One bit, the width of `CARRY` (R6 `CARRY_WIDTH`). -/
abbrev Bit := BitVec 1

/-- One byte, the width of `ACC`, of every operand and of every data response (R6 `ACC_WIDTH`,
`DATA_WIDTH`). -/
abbrev Byte := BitVec 8

/-- Sixteen bits, the width of `CRC` and of a command word (R6 `CRC_WIDTH`, `CMD_WIDTH`). -/
abbrev Word := BitVec 16

end Sys2Proof
end

