-- ==== Sys2Proof/Syntax.lean ====
section
/-! DEFINITION. The nine commands of spec/opcode_table.json (spec/30_encoding.md R43). -/

namespace Sys2Proof

/-- One constructor per row of the opcode map R43. An operand is the data field `D` of the word, an
unsigned byte (R44); no other command has an operand. -/
inductive Instr where
  /-- `CKCLR`: clear the checksum state (R56). -/
  | ckclr
  /-- `CKADC b`: one accumulate-with-carry step (R57). -/
  | ckadc (b : Byte)
  /-- `CKSUM`: read the patch byte (R58). -/
  | cksum
  /-- `CKACC`: read the accumulator (R59). -/
  | ckacc
  /-- `CKCY`: read the carry flag (R60). -/
  | ckcy
  /-- `CRCINIT`: load the initial value (R63). -/
  | crcinit
  /-- `CRCBYTE b`: shift one byte through the CRC register (R64). -/
  | crcbyte (b : Byte)
  /-- `CRCLO`: read the low byte of the signature (R65). -/
  | crclo
  /-- `CRCHI`: read the high byte of the signature (R66). -/
  | crchi
deriving DecidableEq, Repr

end Sys2Proof
end

