-- ==== Sys2Proof/WellFormed.lean ====
section
/-! DEFINITION. What the spec asks of an instruction, of a line of assembler source and of an image
before it may be used. -/

namespace Sys2Proof

/-- Every term of `Instr` is well-formed: the one condition on an operand, an unsigned value in
`0 .. 255` (R44), is its type `Byte`, and no other command has an operand. The conditions that a
value can break are those of the command word (`decode`, R46), of source text (below, R50) and of an
image (below, R30). -/
def Instr.wellFormed : Instr → Bool
  | .ckclr => true
  | .ckadc _ => true
  | .cksum => true
  | .ckacc => true
  | .ckcy => true
  | .crcinit => true
  | .crcbyte _ => true
  | .crclo => true
  | .crchi => true

/-- The nine mnemonics of assembler source (R43, R50). -/
inductive Mnemonic where
  /-- `CKCLR` -/
  | ckclr
  /-- `CKADC` -/
  | ckadc
  /-- `CKSUM` -/
  | cksum
  /-- `CKACC` -/
  | ckacc
  /-- `CKCY` -/
  | ckcy
  /-- `CRCINIT` -/
  | crcinit
  /-- `CRCBYTE` -/
  | crcbyte
  /-- `CRCLO` -/
  | crclo
  /-- `CRCHI` -/
  | crchi
deriving DecidableEq, Repr

/-- `CKADC` and `CRCBYTE` are followed by one operand, the others by none (R50). -/
def Mnemonic.takesOperand : Mnemonic → Bool
  | .ckadc => true
  | .crcbyte => true
  | _ => false

/-- One command as source text gives it: the operand is a number of any size until it is checked. -/
structure SourceCommand where
  /-- The mnemonic of the line. -/
  mnemonic : Mnemonic
  /-- The number after it, if there is one. -/
  operand : Option Nat
deriving DecidableEq, Repr

/-- The assembler's check (R50): an operand stands exactly where the mnemonic takes one, and is in
`0 .. 255`; "an operand outside `0 .. 255` is an assembly error". -/
def SourceCommand.wellFormed (c : SourceCommand) : Bool :=
  match c.operand with
  | none => !c.mnemonic.takesOperand
  | some n => c.mnemonic.takesOperand && decide (n ≤ 255)

/-- One line of a host listing: a command, or a pseudo-command of R51 to R53 with its byte sequence.
A pseudo-command is host text and never a command word (R54). -/
inductive SourceLine where
  /-- A command of R50. -/
  | command (c : SourceCommand)
  /-- `CKFOLD s` (R51). -/
  | ckfold (s : List Byte)
  /-- `CRCFOLD s` (R52). -/
  | crcfold (s : List Byte)
  /-- `RDSIG` (R53). -/
  | rdsig
deriving DecidableEq, Repr

/-- The check of a source line: only a plain command can break a condition. -/
def SourceLine.wellFormed : SourceLine → Bool
  | .command c => c.wellFormed
  | .ckfold _ => true
  | .crcfold _ => true
  | .rdsig => true

/-- The host's sequences need the three header bytes: `N >= 3` (R30, D20). -/
def imageWellFormed (img : List Byte) : Bool := decide (3 ≤ img.length)

end Sys2Proof
end

