-- ==== Sys2Proof/Decode.lean ====
section
/-! DEFINITION. Command words: the fields of the format `CMD` (spec/30_encoding.md R41), the decoder
R46, the encoder, the match and mask rows of R45, and the byte order of a stored word
(spec/20_memory.md R33). -/

namespace Sys2Proof

/-- The field `RSV`, bits 15:12 (R41). -/
def rsvField (w : Word) : BitVec 4 := w.extractLsb' 12 4

/-- The field `OP`, bits 11:8 (R41). -/
def opField (w : Word) : BitVec 4 := w.extractLsb' 8 4

/-- The field `D`, bits 7:0 (R41). -/
def dataField (w : Word) : Byte := w.extractLsb' 0 8

/-- Why a word is no command: the three conditions of R70. The block reports none of them apart
(R75); the names are the decoder's own (log 10). -/
inductive IllegalReason where
  /-- `RSV` is not zero. -/
  | reservedField
  /-- `OP` is one of the seven reserved opcodes. -/
  | reservedOpcode
  /-- `D` is not zero on a command that has no operand. -/
  | dataNotZero
deriving DecidableEq, Repr

/-- A command without an operand is legal only with `D = 0x00` (R41, R46). -/
def withoutOperand (d : Byte) (i : Instr) : Except IllegalReason Instr :=
  if d = 0x00#8 then .ok i else .error .dataNotZero

/-- The opcode map R43 with the last two checks of R46. -/
def decodeOpcode (op : BitVec 4) (d : Byte) : Except IllegalReason Instr :=
  match op.toNat with
  | 0x1 => withoutOperand d .ckclr
  | 0x2 => .ok (.ckadc d)
  | 0x3 => withoutOperand d .cksum
  | 0x4 => withoutOperand d .ckacc
  | 0x5 => withoutOperand d .ckcy
  | 0x9 => withoutOperand d .crcinit
  | 0xA => .ok (.crcbyte d)
  | 0xB => withoutOperand d .crclo
  | 0xC => withoutOperand d .crchi
  | _ => .error .reservedOpcode

/-- The decoder R46: total, and every unassigned word is rejected by name. -/
def decode (w : Word) : Except IllegalReason Instr :=
  if rsvField w = 0#4 then decodeOpcode (opField w) (dataField w) else .error .reservedField

/-- The opcode of a command (R43). -/
def opcodeOf : Instr → BitVec 4
  | .ckclr => 0x1#4
  | .ckadc _ => 0x2#4
  | .cksum => 0x3#4
  | .ckacc => 0x4#4
  | .ckcy => 0x5#4
  | .crcinit => 0x9#4
  | .crcbyte _ => 0xA#4
  | .crclo => 0xB#4
  | .crchi => 0xC#4

/-- The data field of a command: its operand, and `0x00` where it has none (R41, R43). -/
def dataOf : Instr → Byte
  | .ckadc b => b
  | .crcbyte b => b
  | _ => 0x00#8

/-- The command word: `RSV = 0`, then `OP`, then `D` (R41). -/
def encode (i : Instr) : Word := (0#4 ++ opcodeOf i) ++ dataOf i

/-- The unit a command belongs to: `true` for the signature unit, `false` for the checksum unit
(R41, R43: `OP[3]` selects the unit). -/
def Instr.isSignature : Instr → Bool
  | .crcinit => true
  | .crcbyte _ => true
  | .crclo => true
  | .crchi => true
  | _ => false

/-- The five pure reads (R38): each answers `DATA` and writes no register. -/
def Instr.isRead : Instr → Bool
  | .cksum => true
  | .ckacc => true
  | .ckcy => true
  | .crclo => true
  | .crchi => true
  | _ => false

/-- A row of R45: a word is the row's command exactly when its masked bits are the match bits. -/
structure OpcodeRow where
  /-- The bits the row fixes. -/
  mask : Word
  /-- Their values. -/
  matchBits : Word
  /-- The command, given the word's data field. -/
  build : Byte → Instr

/-- The match and mask table R45. -/
def opcodeRows : List OpcodeRow :=
  [⟨0xFFFF#16, 0x0100#16, fun _ => .ckclr⟩,
   ⟨0xFF00#16, 0x0200#16, .ckadc⟩,
   ⟨0xFFFF#16, 0x0300#16, fun _ => .cksum⟩,
   ⟨0xFFFF#16, 0x0400#16, fun _ => .ckacc⟩,
   ⟨0xFFFF#16, 0x0500#16, fun _ => .ckcy⟩,
   ⟨0xFFFF#16, 0x0900#16, fun _ => .crcinit⟩,
   ⟨0xFF00#16, 0x0A00#16, .crcbyte⟩,
   ⟨0xFFFF#16, 0x0B00#16, fun _ => .crclo⟩,
   ⟨0xFFFF#16, 0x0C00#16, fun _ => .crchi⟩]

/-- The word is the row's command (R45: `(w & mask) = match`). -/
def OpcodeRow.accepts (r : OpcodeRow) (w : Word) : Bool := decide (w &&& r.mask = r.matchBits)

/-- A command word as a host stores it in bytes: low byte first, at the lower address (R33). -/
def storedBytes (w : Word) : List Byte := [w.extractLsb' 0 8, w.extractLsb' 8 8]

/-- The command word that two stored bytes make, the first the low byte (R33). -/
def storedWord (low high : Byte) : Word := high ++ low

/-- The command words of a stored listing (R33); none where a word lacks its second byte. -/
def wordsOfBytes : List Byte → Option (List Word)
  | [] => some []
  | [_] => none
  | low :: high :: rest => (wordsOfBytes rest).map (storedWord low high :: ·)

/-- The command word among the low `nbits` bits of `w`: every command has exactly 16 bits (R42), and
a bit above `nbits` is 0 (log 9). -/
def tableWord (nbits w : Nat) : Word := BitVec.ofNat 16 (w % 2 ^ nbits)

/-- The instruction the decoder reads from a word of spec/opcode_table.json; none where it refuses. -/
def decodeTableWord (nbits w : Nat) : Option Instr :=
  match decode (tableWord nbits w) with
  | .ok i => some i
  | .error _ => none

end Sys2Proof
end

