-- ==== Sys2Proof/Machine/Params.lean ====
section
/-! DEFINITION. The block's fixed parameters (spec/00_scope.md R6): hardwired constants, not registers
(spec/10_state.md R19). -/

namespace Sys2Proof.Machine

/-- `CK_ACC_INIT` (R6). -/
def ckAccInit : Byte := 0x00#8

/-- `CK_CARRY_INIT` (R6). -/
def ckCarryInit : Bit := 0#1

/-- `CRC_INIT` (R6, R19). -/
def crcInit : Word := 0xFFFF#16

/-- `CRC_POLY` (R6, R19). -/
def crcPoly : Word := 0x1021#16

/-- `CRC_ROUNDS`, the shift rounds of one byte (R6). -/
def crcRoundsPerByte : Nat := 8

/-- The cause code `ILLEGAL_COMMAND` (R70). -/
def illegalCommandCode : Byte := 0x01#8

end Sys2Proof.Machine
end

