-- ==== Sys2Proof/Machine/Operands.lean ====
section
/-! DEFINITION. How a command uses its operand byte (spec/30_encoding.md R44), and the values the read
commands answer (spec/40_checksum.md, spec/41_signature.md). -/

namespace Sys2Proof.Machine

/-- `CKADC`'s operand: the byte as a natural number, never extended or scaled (R44). -/
def checksumOperand (b : Byte) : Nat := b.toNat

/-- `CRCBYTE`'s operand: the byte at bits 15:8 (R44, R64 `b << 8`). -/
def crcOperand (b : Byte) : Word := b.setWidth 16 <<< 8

/-- The patch byte `(256 - ACC) & 0xFF` (R58). -/
def patchByte (acc : Byte) : Byte := BitVec.ofNat 8 ((256 - acc.toNat) &&& 0xFF)

/-- `zext_8(CARRY)` (R35, R60). -/
def carryByte (carry : Bit) : Byte := carry.setWidth 8

/-- `CRC[7:0]` (R65). -/
def crcLowByte (crc : Word) : Byte := crc.extractLsb' 0 8

/-- `CRC[15:8]` (R66). -/
def crcHighByte (crc : Word) : Byte := crc.extractLsb' 8 8

end Sys2Proof.Machine
end

