-- ==== Sys2Proof/Machine/Flags.lean ====
section
/-! DEFINITION. The accumulate-with-carry sum and the block's one flag (spec/40_checksum.md R57,
spec/10_state.md R17, R21). -/

namespace Sys2Proof.Machine

/-- `result <- ACC + b + CARRY`, exact, at most 0x1FF (R57). -/
def checksumSum (acc : Byte) (carry : Bit) (b : Byte) : Nat :=
  acc.toNat + checksumOperand b + carry.toNat

/-- `CARRY <- result >> 8` (R57, R17). -/
def carryOut (result : Nat) : Bit := BitVec.ofNat 1 (result >>> 8)

/-- `ACC <- result & 0xFF` (R57, R16). -/
def accOut (result : Nat) : Byte := BitVec.ofNat 8 (result &&& 0xFF)

end Sys2Proof.Machine
end

