-- ==== Sys2Proof/Config.lean ====
section
/-! DEFINITION. What the spec leaves open as a parameter with a value: `POWERUP_STATE`
(spec/00_scope.md R6, spec/10_state.md R27, spec/92_eei_decisions.md D8). Each register has a constant
of its own with no body, so nothing can be proved of its value. The parameter `LATENCY` is read by no
rule (spec/70_reset_and_hazards.md R93) and has no constant (log 7). -/

namespace Sys2Proof

/-- `ACC` after power-up, before the first reset: any value (R27, log 5). -/
opaque Config.powerUpAcc : Byte

/-- `CARRY` after power-up, before the first reset: any value (R27, log 5). -/
opaque Config.powerUpCarry : Bit

/-- `CRC` after power-up, before the first reset: any value (R27, log 5). -/
opaque Config.powerUpCrc : Word

end Sys2Proof
end

