-- ==== Sys2Proof/Machine/State.lean ====
section
/-! DEFINITION. The machine's state: the block's three registers (spec/10_state.md R15), the host's
channel, and the model's bookkeeping (logs 1, 4, 5). The block has no memory (spec/20_memory.md R28). -/

namespace Sys2Proof.Machine

/-- One input of the host: a command word or a reset (R13, R94). Reset is no command (R49). -/
inductive HostInput where
  /-- A 16-bit command word, legal or not (R41). -/
  | command (cmd : Word)
  /-- The reset input `RST` (R81). -/
  | reset
deriving DecidableEq, Repr

/-- A response of the block (R47). -/
inductive Response where
  /-- `NONE` -/
  | none
  /-- `DATA(v)` -/
  | data (v : Byte)
  /-- `ERR(code, cmd)` -/
  | err (code : Byte) (cmd : Word)
deriving DecidableEq, Repr

/-- The response is an `ERR` (R94). -/
def Response.isErr : Response → Bool
  | .none => false
  | .data _ => false
  | .err _ _ => true

/-- The machine's state. -/
structure State where
  /-- `ACC`, the checksum unit's accumulator (R16). -/
  acc : Byte
  /-- `CARRY`, the checksum unit's carry flag, the block's only flag (R17, R21). -/
  carry : Bit
  /-- `CRC`, the signature unit's shift register (R18). -/
  crc : Word
  /-- The host inputs issued and not yet served, the next one first (R13, R39; log 1). -/
  pending : List HostInput
  /-- The responses given so far, the oldest first (R47, R94; log 4). -/
  responses : List Response
  /-- The model's never-cleared mark that an `ERR` occurred (R74, D18; log 4). -/
  errMark : Bool
  /-- Whether the run's reset has happened (R82, D8; log 5). -/
  resetSeen : Bool
deriving DecidableEq, Repr

/-- No step of this machine faults: its one exception, `IllegalCommand`, is a next state with an `ERR`
response (R70, R73), legal commands raise nothing (R71), and there is no halt (R94). So the type has no
constructor, and that no run faults is safe to rely on exactly as far as R71 and R73 are (log 6). -/
inductive Fault where
deriving DecidableEq, Repr

/-- Why a step has no meaning. -/
inductive Refusal where
  /-- Raised by an arm of `exec` whose instruction has no meaning yet; no arm raises it. Safe: it stops. -/
  | notModelled (mnemonic : String)
  /-- Raised by the step for a command issued before the first reset: "A model refuses it rather than
  giving it a meaning" (R82). Safe: it stops where the spec gives nothing. -/
  | commandBeforeReset
deriving DecidableEq, Repr

/-- The machine right after reset: R26, R81. Nothing is pending and nothing has been answered. -/
def State.reset : State where
  acc := ckAccInit
  carry := ckCarryInit
  crc := crcInit
  pending := []
  responses := []
  errMark := false
  resetSeen := true

/-- The machine after power-up, before its first reset: `POWERUP_STATE` (R27, R80, R82; log 5). -/
def State.powerUp : State where
  acc := Config.powerUpAcc
  carry := Config.powerUpCarry
  crc := Config.powerUpCrc
  pending := []
  responses := []
  errMark := false
  resetSeen := false

end Sys2Proof.Machine
end

