-- ==== Sys2Proof/Machine/Ops.lean ====
section
/-! DEFINITION. The named updates of the state: the registers' writes, the response channel, the reset
input and taking the one exception. -/

namespace Sys2Proof.Machine

/-- Write both registers of the checksum unit (R16, R17). -/
def writeChecksum (acc : Byte) (carry : Bit) (s : State) : State := { s with acc := acc, carry := carry }

/-- Write the signature unit's register (R18). -/
def writeCrc (crc : Word) (s : State) : State := { s with crc := crc }

/-- Give one response (R9 `respond`, R47). -/
def respond (r : Response) (s : State) : State := { s with responses := s.responses ++ [r] }

/-- Take the served input off the host's channel. -/
def withPending (inputs : List HostInput) (s : State) : State := { s with pending := inputs }

/-- Take the exception `IllegalCommand` (R70, R73): the response `ERR(0x01, cmd)` and the model's mark
(R74, D18). No register is written, nothing is saved, and no vector, mode or mask exists. There is no
return from it (R74). -/
def takeIllegalCommand (cmd : Word) (s : State) : State :=
  { respond (.err illegalCommandCode cmd) s with errMark := true }

/-- Take the reset input (R81): both units at once, with no response. The responses already given and
the mark stay: a reset may come inside a run (R94), and the mark is never cleared (D18). -/
def takeReset (s : State) : State :=
  { writeCrc crcInit (writeChecksum ckAccInit ckCarryInit s) with resetSeen := true }

end Sys2Proof.Machine
end

