-- ==== Sys2Proof/Machine/Checksum.lean ====
section
/-! DEFINITION. The meanings of the checksum unit's commands (spec/40_checksum.md). None reads or writes
`CRC` (spec/10_state.md R25). -/

namespace Sys2Proof.Machine

/-- `CKCLR` (R56). -/
def execCkclr (s : State) : Host.Outcome State Fault Refusal :=
  .next (respond .none (writeChecksum ckAccInit ckCarryInit s))

/-- `CKADC b` (R57). -/
def execCkadc (b : Byte) (s : State) : Host.Outcome State Fault Refusal :=
  let result := checksumSum s.acc s.carry b
  .next (respond .none (writeChecksum (accOut result) (carryOut result) s))

/-- `CKSUM` (R58): `CARRY` is not read. -/
def execCksum (s : State) : Host.Outcome State Fault Refusal :=
  .next (respond (.data (patchByte s.acc)) s)

/-- `CKACC` (R59). -/
def execCkacc (s : State) : Host.Outcome State Fault Refusal :=
  .next (respond (.data s.acc) s)

/-- `CKCY` (R60). -/
def execCkcy (s : State) : Host.Outcome State Fault Refusal :=
  .next (respond (.data (carryByte s.carry)) s)

end Sys2Proof.Machine
end

