-- ==== Sys2Proof/Machine/Signature.lean ====
section
/-! DEFINITION. The meanings of the signature unit's commands (spec/41_signature.md). None reads or
writes `ACC` or `CARRY` (spec/10_state.md R25). -/

namespace Sys2Proof.Machine

/-- `CRCINIT` (R63). -/
def execCrcinit (s : State) : Host.Outcome State Fault Refusal :=
  .next (respond .none (writeCrc crcInit s))

/-- `CRCBYTE b` (R64), all eight rounds in one step (R23). -/
def execCrcbyte (b : Byte) (s : State) : Host.Outcome State Fault Refusal :=
  .next (respond .none (writeCrc (crcStep s.crc b) s))

/-- `CRCLO` (R65). Nothing is latched (R91, D12). -/
def execCrclo (s : State) : Host.Outcome State Fault Refusal :=
  .next (respond (.data (crcLowByte s.crc)) s)

/-- `CRCHI` (R66). -/
def execCrchi (s : State) : Host.Outcome State Fault Refusal :=
  .next (respond (.data (crcHighByte s.crc)) s)

end Sys2Proof.Machine
end

