-- ==== Sys2Proof/Machine/Dispatch.lean ====
section
/-! DEFINITION. One arm per command of spec/opcode_table.json. -/

namespace Sys2Proof.Machine

def exec (i : Instr) (s : State) : Host.Outcome State Fault Refusal :=
  match i with
  | .ckclr => Sys2Proof.Machine.execCkclr s
  | .ckadc b => Sys2Proof.Machine.execCkadc b s
  | .cksum => Sys2Proof.Machine.execCksum s
  | .ckacc => Sys2Proof.Machine.execCkacc s
  | .ckcy => Sys2Proof.Machine.execCkcy s
  | .crcinit => Sys2Proof.Machine.execCrcinit s
  | .crcbyte b => Sys2Proof.Machine.execCrcbyte b s
  | .crclo => Sys2Proof.Machine.execCrclo s
  | .crchi => Sys2Proof.Machine.execCrchi s

end Sys2Proof.Machine
end

