-- ==== Sys2Proof/Machine/Inputs.lean ====
section
/-! DEFINITION. Serving one host input: decoding a command word, taking the exception of an illegal one,
the reset input, and the channel itself (spec/60_exceptions.md R73, spec/70_reset_and_hazards.md R81,
R82, R94). -/

namespace Sys2Proof.Machine

/-- One command (R10, R73): decode it, then perform it or take `IllegalCommand`. -/
def runCommand (cmd : Word) (s : State) : Host.Outcome State Fault Refusal :=
  match decode cmd with
  | .ok i => exec i s
  | .error _ => .next (takeIllegalCommand cmd s)

/-- One input (R13): a reset is a step of its own (R81), and a command before the first reset is
refused (R82). -/
def serveInput (input : HostInput) (s : State) : Host.Outcome State Fault Refusal :=
  match input with
  | .reset => .next (takeReset s)
  | .command cmd => if s.resetSeen then runCommand cmd s else .refused .commandBeforeReset

/-- Serve the next pending input, in issue order (R39). With none pending the block "waits for the
next input" (R94): a step that changes nothing (DEDUCED, safe; log 2). -/
def serveNext (s : State) : Host.Outcome State Fault Refusal :=
  match s.pending with
  | [] => .next s
  | input :: rest => serveInput input (withPending rest s)

/-- Put inputs at the end of the host's channel (log 1). -/
def issue (inputs : List HostInput) (s : State) : State := withPending (s.pending ++ inputs) s

/-- Put one command word at the head of the channel, so that it is the next input served. -/
def issueNext (cmd : Word) (s : State) : State := withPending (.command cmd :: s.pending) s

end Sys2Proof.Machine
end

