-- ==== Sys2Proof/Machine/Step.lean ====
section
/-! DEFINITION. The step function: one host input a step (spec/00_scope.md R10, R13). -/

namespace Sys2Proof.Machine

/-- One step of the machine. -/
def step (s : State) : Host.Outcome State Fault Refusal := serveNext s

/-- `s` with the command word of an opcode-table row as the next input: it stands for the host's
issuing that word (log 1, log 9). -/
def State.withFetchWord (s : State) (nbits w : Nat) : State := issueNext (tableWord nbits w) s

end Sys2Proof.Machine
end

