-- ==== Sys2Proof/Machine/Run.lean ====
section
/-! DEFINITION. Runs: steps over a finite sequence of host inputs, and what a run's end shows
(spec/70_reset_and_hazards.md R94). -/

namespace Sys2Proof.Machine

/-- `n` steps, stopping at the first refusal. -/
def runSteps : Nat → State → Host.Outcome State Fault Refusal
  | 0, s => .next s
  | n + 1, s =>
    match step s with
    | .next t => runSteps n t
    | .fault r => .fault r
    | .refused r => .refused r

/-- Issue the inputs and serve everything pending: the run "ends after the step of its last input"
(R94). -/
def run (inputs : List HostInput) (s : State) : Host.Outcome State Fault Refusal :=
  runSteps (issue inputs s).pending.length (issue inputs s)

/-- The host inputs of a sequence of commands. -/
def commandInputs (is : List Instr) : List HostInput := is.map fun i => .command (encode i)

/-- A sequence of commands, run. -/
def runCommands (is : List Instr) (s : State) : Host.Outcome State Fault Refusal :=
  run (commandInputs is) s

/-- What the end of a run shows (R94). -/
structure Observation where
  /-- The final `ACC`. -/
  acc : Byte
  /-- The final `CARRY`. -/
  carry : Bit
  /-- The final `CRC`. -/
  crc : Word
  /-- The responses, one per command. -/
  responses : List Response
  /-- Whether any response was `ERR`. -/
  sawErr : Bool
deriving DecidableEq, Repr

/-- The observation of a state (R94). -/
def observe (s : State) : Observation where
  acc := s.acc
  carry := s.carry
  crc := s.crc
  responses := s.responses
  sawErr := s.errMark

/-- A whole run (R82, R94): power-up, a reset, then the inputs. -/
def runFromPowerUp (inputs : List HostInput) : Host.Outcome State Fault Refusal :=
  run (.reset :: inputs) State.powerUp

end Sys2Proof.Machine
end

