-- ==== Sys2Proof/Machine/HostSequences.lean ====
section
/-! DEFINITION. The host's side of the interface: the pseudo-commands (spec/30_encoding.md R51 to R53)
and the sequence that reproduces the document's Comparator/Patcher (spec/70_reset_and_hazards.md R88).
The image is host data and no part of `State` (spec/10_state.md R22). -/

namespace Sys2Proof.Machine

/-- `CKFOLD s` (R51): the bytes go in reverse order. -/
def ckfold (s : List Byte) : List Instr := .ckclr :: s.reverse.map .ckadc

/-- `CRCFOLD s` (R52): the bytes go in forward order. -/
def crcfold (s : List Byte) : List Instr := .crcinit :: s.map .crcbyte

/-- `RDSIG` (R53): low byte, then high byte. -/
def rdsig : List Instr := [.crclo, .crchi]

/-- Why the host's sequence stops (the host's, not the machine's). -/
inductive HostStop where
  /-- The image has fewer than three bytes; "a model of the host refuses `N < 3`" (D20). Safe. -/
  | imageTooShort
  /-- The block refused a command: the host started before the first reset (R82). Safe. -/
  | blockRefused (r : Refusal)
  /-- The last response was not `DATA`: no sequence of this file asks so. Safe. -/
  | noData
deriving DecidableEq, Repr

/-- The value of the last response, where it is `DATA(v)`. -/
def lastData (s : State) : Option Byte :=
  match s.responses.getLast? with
  | some (.data v) => some v
  | _ => none

/-- Issue commands and take the `DATA` value of the last response. -/
def ask (is : List Instr) (s : State) : Except HostStop (Byte × State) :=
  match runCommands is s with
  | .next t =>
    match lastData t with
    | some v => .ok (v, t)
    | none => .error .noData
  | .fault r => nomatch r
  | .refused r => .error (.blockRefused r)

/-- What `host_patch` returns (R88), with the block's state at its end. -/
structure PatchResult where
  /-- The working copy after the sequence. -/
  image : List Byte
  /-- The stored signature's low byte, before any change. -/
  oldLo : Byte
  /-- The stored signature's high byte, before any change. -/
  oldHi : Byte
  /-- The stored checksum, before any change. -/
  oldCk : Byte
  /-- The computed signature's low byte. -/
  lo : Byte
  /-- The computed signature's high byte. -/
  hi : Byte
  /-- The computed checksum. -/
  c : Byte
  /-- Whether the checksum differed. -/
  ckChanged : Bool
  /-- Whether the signature differed. -/
  sigChanged : Bool
  /-- The block after the last command. -/
  block : State
deriving DecidableEq, Repr

/-- `host_patch` (R88): checksum fold, patch byte 2, then the signature fold over bytes 2 to the end,
which so reads byte 2 as it stands after step 3 (R87). -/
def hostPatch (img : List Byte) (s : State) : Except HostStop PatchResult :=
  match img with
  | oldLo :: oldHi :: oldCk :: payload =>
    match ask (ckfold payload ++ [.cksum]) s with
    | .error e => .error e
    | .ok (c, s1) =>
      let ckChanged := c != oldCk
      let byte2 := if ckChanged then c else oldCk
      match ask (crcfold (byte2 :: payload) ++ [.crclo]) s1 with
      | .error e => .error e
      | .ok (lo, s2) =>
        match ask [.crchi] s2 with
        | .error e => .error e
        | .ok (hi, s3) =>
          let sigChanged := lo != oldLo || hi != oldHi
          let byte0 := if sigChanged then lo else oldLo
          let byte1 := if sigChanged then hi else oldHi
          .ok { image := byte0 :: byte1 :: byte2 :: payload, oldLo := oldLo, oldHi := oldHi,
                oldCk := oldCk, lo := lo, hi := hi, c := c, ckChanged := ckChanged,
                sigChanged := sigChanged, block := s3 }
  | _ => .error .imageTooShort

end Sys2Proof.Machine
end

