-- ==== Sys2Proof/Machine/Assembler.lean ====
section
/-! DEFINITION. Host text (spec/30_encoding.md R50 to R54): reading a source line, assembling it into
command words, and printing a word in a listing. A text is a list of characters. What R50 does not say
of spacing and letter case is log 12's. -/

namespace Sys2Proof.Machine

/-- Why a line does not assemble. -/
inductive AsmError where
  /-- The first word of the line is no mnemonic. -/
  | unknownMnemonic
  /-- The operand is no number of R50. -/
  | badNumber
  /-- More stands on the line than a mnemonic and one operand. -/
  | extraText
  /-- An operand is missing, stands where none belongs, or is outside `0 .. 255` (R50). -/
  | badOperand
deriving DecidableEq, Repr

/-- The instruction of a well-formed source command (R50). -/
def instrOfSource (c : SourceCommand) : Except AsmError Instr :=
  if c.wellFormed then
    let b := BitVec.ofNat 8 (c.operand.getD 0)
    match c.mnemonic with
    | .ckclr => .ok .ckclr
    | .ckadc => .ok (.ckadc b)
    | .cksum => .ok .cksum
    | .ckacc => .ok .ckacc
    | .ckcy => .ok .ckcy
    | .crcinit => .ok .crcinit
    | .crcbyte => .ok (.crcbyte b)
    | .crclo => .ok .crclo
    | .crchi => .ok .crchi
  else .error .badOperand

/-- The commands a source line stands for; a pseudo-command is replaced by its expansion (R54). -/
def expandLine : SourceLine → Except AsmError (List Instr)
  | .command c => (instrOfSource c).map fun i => [i]
  | .ckfold s => .ok (ckfold s)
  | .crcfold s => .ok (crcfold s)
  | .rdsig => .ok rdsig

/-- The text before a comment: "a `;` starts a comment" (R50). -/
def beforeComment (line : List Char) : List Char := line.takeWhile fun ch => ch != ';'

/-- The blank-separated words of a text; `word` is the word being read. -/
def splitWords : List Char → List Char → List (List Char)
  | [], word => if word.isEmpty then [] else [word]
  | ch :: rest, word =>
    if ch = ' ' || ch = '\t' then
      if word.isEmpty then splitWords rest [] else word :: splitWords rest []
    else splitWords rest (word ++ [ch])

/-- The mnemonics' spellings, in capitals (R43). -/
def mnemonicSpellings : List (List Char × Mnemonic) :=
  [(['C', 'K', 'C', 'L', 'R'], .ckclr), (['C', 'K', 'A', 'D', 'C'], .ckadc),
   (['C', 'K', 'S', 'U', 'M'], .cksum), (['C', 'K', 'A', 'C', 'C'], .ckacc),
   (['C', 'K', 'C', 'Y'], .ckcy), (['C', 'R', 'C', 'I', 'N', 'I', 'T'], .crcinit),
   (['C', 'R', 'C', 'B', 'Y', 'T', 'E'], .crcbyte), (['C', 'R', 'C', 'L', 'O'], .crclo),
   (['C', 'R', 'C', 'H', 'I'], .crchi)]

/-- A mnemonic in any letter case (R50). -/
def readMnemonic (word : List Char) : Option Mnemonic :=
  mnemonicSpellings.lookup (word.map Char.toUpper)

/-- The value of a digit in a base up to 16. -/
def readDigit (base : Nat) (ch : Char) : Option Nat :=
  let n := ch.toUpper.toNat
  let v := if 48 ≤ n ∧ n ≤ 57 then n - 48 else if 65 ≤ n ∧ n ≤ 70 then n - 55 else base
  if v < base then some v else none

/-- The value of a run of digits, from the value of the digits before it. -/
def readDigits (base : Nat) : List Char → Nat → Option Nat
  | [], acc => some acc
  | ch :: rest, acc => (readDigit base ch).bind fun d => readDigits base rest (acc * base + d)

/-- A number in hex (`0x..`) or decimal (R50); at least one digit. -/
def readNumber (word : List Char) : Option Nat :=
  match word with
  | '0' :: 'x' :: d :: ds => readDigits 16 (d :: ds) 0
  | d :: ds => readDigits 10 (d :: ds) 0
  | [] => none

/-- One line of text: nothing, a command, or `RDSIG`. R50 to R52 give no spelling for the byte
sequence of `CKFOLD` and `CRCFOLD`, so those two are made as `SourceLine` values only. -/
def readLine (line : List Char) : Except AsmError (Option SourceLine) :=
  match splitWords (beforeComment line) [] with
  | [] => .ok none
  | m :: rest =>
    if m.map Char.toUpper = ['R', 'D', 'S', 'I', 'G'] then
      if rest.isEmpty then .ok (some .rdsig) else .error .extraText
    else
      match readMnemonic m, rest with
      | none, _ => .error .unknownMnemonic
      | some k, [] => .ok (some (.command ⟨k, none⟩))
      | some k, [n] =>
        match readNumber n with
        | some v => .ok (some (.command ⟨k, some v⟩))
        | none => .error .badNumber
      | some _, _ => .error .extraText

/-- The command words of one line of text. -/
def assembleLine (line : List Char) : Except AsmError (List Word) :=
  match readLine line with
  | .error e => .error e
  | .ok none => .ok []
  | .ok (some l) => (expandLine l).map fun is => is.map encode

/-- The command words of a whole listing, one command or pseudo-command per line (R50). -/
def assembleText : List (List Char) → Except AsmError (List Word)
  | [] => .ok []
  | line :: rest =>
    match assembleLine line with
    | .error e => .error e
    | .ok ws => (assembleText rest).map fun more => ws ++ more

/-- One hex digit of a listing, in capitals. -/
def hexDigit (n : Nat) : Char := if n < 10 then Char.ofNat (48 + n) else Char.ofNat (55 + n)

/-- A word in a listing: "four hex digits" (R50). -/
def listingWord (w : Word) : List Char :=
  [hexDigit (w.toNat / 4096 % 16), hexDigit (w.toNat / 256 % 16),
   hexDigit (w.toNat / 16 % 16), hexDigit (w.toNat % 16)]

end Sys2Proof.Machine
end

