-- ==== Sys2Proof/Machine/Reference.lean ====
section
/-! DEFINITION. The document's two algorithms as the spec prints them, loops over exact natural numbers
(spec/00_scope.md R8): the yardstick that statements compare the machine with. No meaning uses this
file. -/

namespace Sys2Proof.Machine

/-- One step of the loop in R61: `r <- acc + b + cy; cy <- r >> 8; acc <- r & 0xFF`. -/
def docChecksumStep (a : Nat × Nat) (b : Byte) : Nat × Nat :=
  ((a.1 + b.toNat + a.2) &&& 0xFF, (a.1 + b.toNat + a.2) >>> 8)

/-- The loop over bytes in the order given, from `(acc, cy)`. -/
def docChecksumLoop : Nat × Nat → List Byte → Nat × Nat
  | a, [] => a
  | a, b :: bs => docChecksumLoop (docChecksumStep a b) bs

/-- The document's checksum byte of a payload (R61): the loop from the last byte to the first, then
`(256 - acc) & 0xFF`. -/
def docChecksum (payload : List Byte) : Nat :=
  (256 - (docChecksumLoop (0, 0) payload.reverse).1) &&& 0xFF

/-- How many carries a fold in the order given feeds into a later step, from `(acc, cy)` (R62 `Kf`,
`Kr`): the sum of the carries each step takes in, which leaves out the carry out of the last step. -/
def carriesFedBack : Nat × Nat → List Byte → Nat
  | _, [] => 0
  | a, b :: bs => a.2 + carriesFedBack (docChecksumStep a b) bs

/-- One round of R64's loop body. -/
def docCrcRound (r : Nat) : Nat :=
  if r.testBit 15 then ((r <<< 1) ^^^ 0x1021) &&& 0xFFFF else (r <<< 1) &&& 0xFFFF

/-- "repeat 8 times" and the like. -/
def docCrcRepeat : Nat → Nat → Nat
  | 0, r => r
  | n + 1, r => docCrcRepeat n (docCrcRound r)

/-- The body of R64: `r <- CRC ^ (b << 8)`, then eight rounds. -/
def docCrcStep (reg : Nat) (b : Byte) : Nat := docCrcRepeat 8 (reg ^^^ (b.toNat <<< 8))

/-- R67's loop over bytes in forward order. -/
def docCrcLoop : Nat → List Byte → Nat
  | reg, [] => reg
  | reg, b :: bs => docCrcLoop (docCrcStep reg b) bs

/-- The document's signature of a byte sequence (R67). -/
def docSignature (s : List Byte) : Nat := docCrcLoop 0xFFFF s

end Sys2Proof.Machine
end

