-- ==== Sys2Proof/Safety.lean ====
section
/-! DEFINITION. What statements call a good state and a clean run. -/

namespace Sys2Proof.Machine

/-- No `ERR` has occurred: the premise a claim about a host's program takes (spec/92_eei_decisions.md
D18). -/
abbrev State.noErr (s : State) : Prop := s.errMark = false

/-- The block takes a command: its reset has happened (spec/70_reset_and_hazards.md R82, R83). -/
abbrev State.ready (s : State) : Prop := s.resetSeen = true

/-- A recorded response is one the block can give (R47, R70): an `ERR` carries the one cause code and a
word that the decoder rejects. -/
def Response.lawful : Response → Bool
  | .none => true
  | .data _ => true
  | .err code cmd =>
    decide (code = illegalCommandCode) &&
      match decode cmd with
      | .ok _ => false
      | .error _ => true

/-- The invariant of the model's bookkeeping: the mark says exactly whether an `ERR` was given (R74,
R94, D18), every recorded response is lawful (R47, R70), and nothing has been answered before the first
reset (R82). -/
abbrev State.Inv (s : State) : Prop :=
  s.errMark = s.responses.any Response.isErr ∧ s.responses.all Response.lawful = true ∧
    (s.resetSeen = false → s.responses = [])

end Sys2Proof.Machine
end

