-- ==== Sys2Proof/Certificates/Slice0/Obligations.lean ====
section
/-! DEFINITION. The statements for the provers. Each docstring names the rules of spec/ it rests on;
where a clause is the model's own choice it says so and names the log entry. -/

open Sys2Proof Sys2Proof.Machine

-- ## Command words

/-- Words written out bit by bit from the patterns of R45 decode to their commands. -/
def Obligations.PatternWordsDecode : Prop :=
  decode 0b0000000100000000#16 = .ok .ckclr ∧
  decode 0b0000001011111111#16 = .ok (.ckadc 0xFF#8) ∧
  decode 0b0000001100000000#16 = .ok .cksum ∧
  decode 0b0000010000000000#16 = .ok .ckacc ∧
  decode 0b0000010100000000#16 = .ok .ckcy ∧
  decode 0b0000100100000000#16 = .ok .crcinit ∧
  decode 0b0000101011111101#16 = .ok (.crcbyte 0xFD#8) ∧
  decode 0b0000101100000000#16 = .ok .crclo ∧
  decode 0b0000110000000000#16 = .ok .crchi

/-- R45: a word is a command exactly when its masked bits are the command's match bits, the operand is
`cmd[7:0]`, and no word matches two rows. -/
def Obligations.DecoderIsTheMatchMaskTable : Prop :=
  (∀ (w : Word) (i : Instr), decode w = .ok i ↔
    (w &&& 0xFFFF#16 = 0x0100#16 ∧ i = .ckclr) ∨
    (w &&& 0xFF00#16 = 0x0200#16 ∧ i = .ckadc (BitVec.ofNat 8 (w.toNat % 256))) ∨
    (w &&& 0xFFFF#16 = 0x0300#16 ∧ i = .cksum) ∨
    (w &&& 0xFFFF#16 = 0x0400#16 ∧ i = .ckacc) ∨
    (w &&& 0xFFFF#16 = 0x0500#16 ∧ i = .ckcy) ∨
    (w &&& 0xFFFF#16 = 0x0900#16 ∧ i = .crcinit) ∨
    (w &&& 0xFF00#16 = 0x0A00#16 ∧ i = .crcbyte (BitVec.ofNat 8 (w.toNat % 256))) ∨
    (w &&& 0xFFFF#16 = 0x0B00#16 ∧ i = .crclo) ∨
    (w &&& 0xFFFF#16 = 0x0C00#16 ∧ i = .crchi)) ∧
  opcodeRows.Pairwise fun r q => ∀ w : Word, ¬ (r.accepts w = true ∧ q.accepts w = true)

/-- R46's count: the legal words are 519, no more and no fewer. -/
def Obligations.LegalWordsAre519 : Prop :=
  ∃ legal : List Word, legal.Nodup ∧ legal.length = 519 ∧
    ∀ w : Word, w ∈ legal ↔ ∃ i, decode w = .ok i

/-- Decode and encode agree both ways: every command is read back from its word with its operand at
every value (R41, R43, R44), and a word the decoder accepts has no bit the command does not keep. -/
def Obligations.DecodeAndEncodeAgree : Prop :=
  (∀ i : Instr, decode (encode i) = .ok i) ∧
  ∀ (w : Word) (i : Instr), decode w = .ok i → encode i = w

/-- R33: a stored command word has its low byte (`D`) first, and a stored listing reads back. -/
def Obligations.StoredWordsAreLowByteFirst : Prop :=
  (∀ w : Word, storedBytes w =
    [BitVec.ofNat 8 (w.toNat % 256), BitVec.ofNat 8 (w.toNat / 256)]) ∧
  (∀ i : Instr, (storedBytes (encode i)).head? = some (dataOf i)) ∧
  ∀ ws : List Word, wordsOfBytes (ws.flatMap storedBytes) = some ws

-- ## The step

/-- R10, R73: a step whose next input is a legal command word runs that command, on the state with the
input taken off the host's channel. -/
def Obligations.StepRunsTheDecodedCommand : Prop :=
  ∀ (s : State) (w : Word) (rest : List HostInput) (i : Instr),
    s.ready → s.pending = .command w :: rest → decode w = .ok i →
      step s = exec i { s with pending := rest }

/-- R73: an illegal word writes no register, gives `ERR(0x01, cmd)` and nothing else (the mark is the
model's own, R74, D18), and the next command is decoded and executed normally; a legal word performs
its command. -/
def Obligations.IllegalCommandIsPrecise : Prop :=
  ∀ (s : State) (w : Word) (rest : List HostInput), s.ready → s.pending = .command w :: rest →
    (∀ i, decode w = .ok i → step s = exec i { s with pending := rest }) ∧
    (∀ e, decode w = .error e →
      ∃ t, step s = .next t ∧
        t = { s with pending := rest, responses := s.responses ++ [.err 0x01#8 w], errMark := true } ∧
        ∀ (w2 : Word) (rest2 : List HostInput) (i : Instr),
          rest = .command w2 :: rest2 → decode w2 = .ok i →
            step t = exec i { t with pending := rest2 })

/-- R70: which words raise `IllegalCommand`, and that it is the only `ERR` a step gives, with cause
code 0x01 and the whole command word, nothing being recorded in the block's registers. -/
def Obligations.IllegalCommandIsTheOnlyException : Prop :=
  let illegal (w : Word) : Prop :=
    w.toNat / 4096 ≠ 0 ∨
    (w.toNat / 256 % 16) ∈ [0x0, 0x6, 0x7, 0x8, 0xD, 0xE, 0xF] ∨
    (w.toNat % 256 ≠ 0 ∧ (w.toNat / 256 % 16) ∉ [0x2, 0xA])
  (∀ w : Word, (∃ e, decode w = .error e) ↔ illegal w) ∧
  ∀ s t : State, s.ready → step s = .next t →
    ∀ (code : Byte) (cmd : Word),
      (t.responses = s.responses ++ [.err code cmd] ↔
        code = 0x01#8 ∧ illegal cmd ∧ ∃ rest, s.pending = .command cmd :: rest) ∧
      (t.responses = s.responses ++ [.err code cmd] →
        t.acc = s.acc ∧ t.carry = s.carry ∧ t.crc = s.crc)

/-- R47: exactly one response per command, of the kind the rule lists, and none for a reset. That the
record of earlier responses stays through a reset is the model's reading of R94 and D18 (log 4,
DEDUCED), not R47's word. -/
def Obligations.EachCommandGivesItsOneResponse : Prop :=
  ∀ (s : State) (input : HostInput) (rest : List HostInput),
    s.ready → s.pending = input :: rest →
      ∃ t, step s = .next t ∧
        match input with
        | .reset => t.responses = s.responses
        | .command w =>
          ∃ r, t.responses = s.responses ++ [r] ∧
            match decode w with
            | .ok .ckclr => r = .none
            | .ok (.ckadc _) => r = .none
            | .ok .crcinit => r = .none
            | .ok (.crcbyte _) => r = .none
            | .ok .cksum => ∃ v, r = .data v
            | .ok .ckacc => ∃ v, r = .data v
            | .ok .ckcy => ∃ v, r = .data v
            | .ok .crclo => ∃ v, r = .data v
            | .ok .crchi => ∃ v, r = .data v
            | .error _ => r = .err 0x01#8 w

/-- With nothing pending a step changes nothing. That waiting is a step is the model's choice (log 2);
R94 says that the block "waits for the next input". -/
def Obligations.IdleStepChangesNothing : Prop :=
  ∀ s : State, s.pending = [] → step s = .next s

-- ## Reset

/-- R26: the registers' values after reset. -/
def Obligations.ResetRegisterValues : Prop :=
  State.reset.acc = 0x00#8 ∧ State.reset.carry = 0#1 ∧ State.reset.crc = 0xFFFF#16

/-- R81: the reset input is a step of its own, may come in any state, resets both units at once and
gives no response. That the record of earlier responses and the mark stay through it is the model's
reading of R94 and D18 (log 4, DEDUCED), not R81's word. -/
def Obligations.ResetInputResetsBothUnits : Prop :=
  ∀ (s : State) (rest : List HostInput), s.pending = .reset :: rest →
    step s = .next { s with acc := 0x00#8, carry := 0#1, crc := 0xFFFF#16,
                            pending := rest, resetSeen := true }

/-- R82: a command before the first reset is refused; power-up is such a state, and its first reset
gives the state after reset, whatever `POWERUP_STATE` is. -/
def Obligations.CommandBeforeResetIsRefused : Prop :=
  (∀ (s : State) (w : Word) (rest : List HostInput),
    s.resetSeen = false → s.pending = .command w :: rest →
      step s = .refused .commandBeforeReset) ∧
  State.powerUp.resetSeen = false ∧
  ∀ rest : List HostInput,
    step { State.powerUp with pending := .reset :: rest } =
      .next { State.reset with pending := rest }

/-- R92: what comes after a reset, a `CKCLR` or a `CRCINIT` does not depend on what the unit did
before: it computes what the same inputs compute directly after reset. Only the reset touches both
units: with `CKCLR` or `CRCINIT` the other unit ends as it does without that command. The inputs around
are any: commands of both units, illegal words and resets. -/
def Obligations.InterruptedFoldStartsAfresh : Prop :=
  ∀ (before after : List HostInput) (s : State), s.ready → s.pending = [] →
    ∃ fresh whole rst ck sg,
      run after State.reset = .next fresh ∧ run (before ++ after) s = .next whole ∧
      run (before ++ .reset :: after) s = .next rst ∧
      rst.acc = fresh.acc ∧ rst.carry = fresh.carry ∧ rst.crc = fresh.crc ∧
      run (before ++ .command (encode .ckclr) :: after) s = .next ck ∧
      ck.acc = fresh.acc ∧ ck.carry = fresh.carry ∧ ck.crc = whole.crc ∧
      run (before ++ .command (encode .crcinit) :: after) s = .next sg ∧
      sg.acc = whole.acc ∧ sg.carry = whole.carry ∧ sg.crc = fresh.crc

-- ## The checksum unit's commands

/-- R56: `CKCLR` is the word 0x0100 alone; it clears both registers to the unit's reset values, answers
`NONE`, and changes nothing else. -/
def Obligations.CkclrClearsTheChecksumState : Prop :=
  (∀ w : Word, decode w = .ok .ckclr ↔ w = 0x0100#16) ∧
  (∀ d : Byte, d ≠ 0x00#8 → ∃ e, decode (0x01#8 ++ d) = .error e) ∧
  State.reset.acc = 0x00#8 ∧ State.reset.carry = 0#1 ∧
  ∀ s : State, exec .ckclr s =
    .next { s with acc := 0x00#8, carry := 0#1, responses := s.responses ++ [.none] }

/-- R57: `CKADC b` is the word `0x0200 | b`; with `result = ACC + b + CARRY`, at most 0x1FF, it writes
bits 7:0 to `ACC` and bit 8 to `CARRY`, answers `NONE`, and changes nothing else. -/
def Obligations.CkadcAddsWithCarry : Prop :=
  (∀ (w : Word) (b : Byte), decode w = .ok (.ckadc b) ↔ w = 0x0200#16 ||| b.setWidth 16) ∧
  ∀ (b : Byte) (s : State),
    s.acc.toNat + b.toNat + s.carry.toNat ≤ 0x1FF ∧
    exec (.ckadc b) s =
      .next { s with acc := BitVec.ofNat 8 ((s.acc.toNat + b.toNat + s.carry.toNat) % 256),
                     carry := BitVec.ofNat 1 ((s.acc.toNat + b.toNat + s.carry.toNat) / 256),
                     responses := s.responses ++ [.none] }

/-- R58: `CKSUM` is the word 0x0300 alone; it answers `(256 - ACC) & 0xFF`, which with `ACC` makes 0
modulo 256, whatever `CARRY` is, and writes no register. -/
def Obligations.CksumAnswersThePatchByte : Prop :=
  (∀ w : Word, decode w = .ok .cksum ↔ w = 0x0300#16) ∧
  ∀ s : State, ∃ v : Byte,
    v.toNat = (256 - s.acc.toNat) % 256 ∧ (s.acc.toNat + v.toNat) % 256 = 0 ∧
    exec .cksum s = .next { s with responses := s.responses ++ [.data v] }

/-- R59: `CKACC` is the word 0x0400 alone; it answers `ACC` and writes no register. -/
def Obligations.CkaccAnswersTheAccumulator : Prop :=
  (∀ w : Word, decode w = .ok .ckacc ↔ w = 0x0400#16) ∧
  ∀ s : State, exec .ckacc s = .next { s with responses := s.responses ++ [.data s.acc] }

/-- R60: `CKCY` is the word 0x0500 alone; it answers 0x00 or 0x01 as `CARRY` is 0 or 1, and writes no
register. -/
def Obligations.CkcyAnswersTheCarry : Prop :=
  (∀ w : Word, decode w = .ok .ckcy ↔ w = 0x0500#16) ∧
  ∀ s : State, exec .ckcy s =
    .next { s with responses :=
      s.responses ++ [.data (if s.carry = 1#1 then 0x01#8 else 0x00#8)] }

-- ## The signature unit's commands

/-- R63: `CRCINIT` is the word 0x0900 alone; it loads 0xFFFF, the unit's reset value, answers `NONE`,
and changes nothing else. -/
def Obligations.CrcinitLoadsTheInitialValue : Prop :=
  (∀ w : Word, decode w = .ok .crcinit ↔ w = 0x0900#16) ∧
  State.reset.crc = 0xFFFF#16 ∧
  ∀ s : State, exec .crcinit s =
    .next { s with crc := 0xFFFF#16, responses := s.responses ++ [.none] }

/-- R64: `CRCBYTE b` is the word `0x0A00 | b`; it writes what R64's loop, over exact natural numbers
and with its eight rounds, computes from `CRC` and `b`, answers `NONE`, and changes nothing else. -/
def Obligations.CrcbyteRunsEightRounds : Prop :=
  (∀ (w : Word) (b : Byte), decode w = .ok (.crcbyte b) ↔ w = 0x0A00#16 ||| b.setWidth 16) ∧
  ∀ (b : Byte) (s : State), ∃ crc : Word,
    crc.toNat = docCrcStep s.crc.toNat b ∧
    exec (.crcbyte b) s = .next { s with crc := crc, responses := s.responses ++ [.none] }

/-- R65: `CRCLO` is the word 0x0B00 alone; it answers `CRC & 0xFF` and writes no register. -/
def Obligations.CrcloAnswersTheLowByte : Prop :=
  (∀ w : Word, decode w = .ok .crclo ↔ w = 0x0B00#16) ∧
  ∀ s : State, exec .crclo s =
    .next { s with responses := s.responses ++ [.data (BitVec.ofNat 8 (s.crc.toNat % 256))] }

/-- R66: `CRCHI` is the word 0x0C00 alone; it answers `(CRC >> 8) & 0xFF` and writes no register. -/
def Obligations.CrchiAnswersTheHighByte : Prop :=
  (∀ w : Word, decode w = .ok .crchi ↔ w = 0x0C00#16) ∧
  ∀ s : State, exec .crchi s =
    .next { s with responses := s.responses ++ [.data (BitVec.ofNat 8 (s.crc.toNat / 256))] }

-- ## Whole-machine rules

/-- The bookkeeping invariant is kept by every step, from every state that has it: the mark says
exactly whether an `ERR` was given, every recorded `ERR` has cause code 0x01 and a word the decoder
rejects, and nothing is answered before the first reset. The record, the mark and `resetSeen` are the
model's own fields, and the first two stay through a reset by its reading of R94 and D18 (log 4, log 5,
DEDUCED). -/
def Obligations.StepKeepsTheInvariant : Prop :=
  ∀ s t : State, s.Inv → step s = .next t → t.Inv

/-- The state after reset, and the state after power-up, have the invariant. -/
def Obligations.ResetHasTheInvariant : Prop := State.reset.Inv ∧ State.powerUp.Inv

/-- R71: legal commands raise no exception for any operand or state; a run of any commands completes,
with one response each and none of them an `ERR`. -/
def Obligations.LegalCommandsRaiseNothing : Prop :=
  (∀ (i : Instr) (s : State), ∃ t r, exec i s = .next t ∧
    t.responses = s.responses ++ [r] ∧ r.isErr = false ∧ t.errMark = s.errMark) ∧
  ∀ (is : List Instr) (s : State), s.ready → s.pending = [] →
    ∃ t rs, runCommands is s = .next t ∧ t.pending = [] ∧ t.responses = s.responses ++ rs ∧
      rs.length = is.length ∧ (∀ r ∈ rs, r.isErr = false) ∧ t.errMark = s.errMark

/-- R16, R17, R18, R35: a register changes only at the inputs that are said to write it. -/
def Obligations.RegistersChangeOnlyAtTheirWriters : Prop :=
  ∀ s t : State, step s = .next t →
    (t.acc ≠ s.acc ∨ t.carry ≠ s.carry →
      ∃ input rest, s.pending = input :: rest ∧
        (input = .reset ∨
          ∃ w, input = .command w ∧ (decode w = .ok .ckclr ∨ ∃ b, decode w = .ok (.ckadc b)))) ∧
    (t.crc ≠ s.crc →
      ∃ input rest, s.pending = input :: rest ∧
        (input = .reset ∨
          ∃ w, input = .command w ∧ (decode w = .ok .crcinit ∨ ∃ b, decode w = .ok (.crcbyte b))))

/-- R25: no command of one unit reads or writes the other unit's registers. That it does not read them
is said by running it with the other unit's registers at any other values. -/
def Obligations.UnitsAreDisjoint : Prop :=
  (∀ (i : Instr) (s : State),
    i ∈ [.ckclr, .cksum, .ckacc, .ckcy] ∨ (∃ b, i = .ckadc b) →
      ∃ t, exec i s = .next t ∧ t.crc = s.crc ∧
        ∀ crc : Word, exec i { s with crc := crc } = .next { t with crc := crc }) ∧
  ∀ (i : Instr) (s : State),
    i ∈ [.crcinit, .crclo, .crchi] ∨ (∃ b, i = .crcbyte b) →
      ∃ t, exec i s = .next t ∧ t.acc = s.acc ∧ t.carry = s.carry ∧
        ∀ (acc : Byte) (carry : Bit),
          exec i { s with acc := acc, carry := carry } = .next { t with acc := acc, carry := carry }

/-- R38: the reads leave every register, and a repeated read answers the same; `CKCLR` and `CRCINIT`
are idempotent on the registers; `CKADC` and `CRCBYTE` are not in general. -/
def Obligations.ReadsHaveNoSideEffects : Prop :=
  (∀ i ∈ [Instr.cksum, .ckacc, .ckcy, .crclo, .crchi], ∀ s : State, ∃ t u v,
    exec i s = .next t ∧ exec i t = .next u ∧
    t.acc = s.acc ∧ t.carry = s.carry ∧ t.crc = s.crc ∧
    t.responses = s.responses ++ [.data v] ∧ u.responses = s.responses ++ [.data v, .data v]) ∧
  (∀ i ∈ [Instr.ckclr, .crcinit], ∀ s : State, ∃ t u,
    exec i s = .next t ∧ exec i t = .next u ∧
    u.acc = t.acc ∧ u.carry = t.carry ∧ u.crc = t.crc) ∧
  (∃ (b : Byte) (s t u : State),
    exec (.ckadc b) s = .next t ∧ exec (.ckadc b) t = .next u ∧ u.acc ≠ t.acc) ∧
  ∃ (b : Byte) (s t u : State),
    exec (.crcbyte b) s = .next t ∧ exec (.crcbyte b) t = .next u ∧ u.crc ≠ t.crc

/-- R79: a host may read at any points of a run without disturbing it: the registers end as they do
with every read command left out. -/
def Obligations.TraceReadsDoNotDisturb : Prop :=
  ∀ (is : List Instr) (s : State), s.ready → s.pending = [] →
    ∃ t u, runCommands is s = .next t ∧
      runCommands (is.filter fun i => !i.isRead) s = .next u ∧
      t.acc = u.acc ∧ t.carry = u.carry ∧ t.crc = u.crc

/-- R39: inputs take effect in issue order; a run of `a` and then `b` is the run of `b` from the state
that the run of `a` leaves, so no input of `a` sees any of `b`. -/
def Obligations.InputsTakeEffectInIssueOrder : Prop :=
  ∀ (a b : List HostInput) (s : State), s.ready → s.pending = [] →
    ∃ t, run a s = .next t ∧ t.pending = [] ∧ run (a ++ b) s = run b t

/-- R94, R82, R47: a run over any inputs ends; it has given one response per command, and its mark says
whether any command was illegal (R74, D18). A whole run from power-up, whose first input is the reset,
shows what the same inputs show from the state after reset. The inputs may hold resets: that the
responses and the mark stay through one is the model's reading (log 4, DEDUCED), and the count and the
mark over such inputs rest on it. -/
def Obligations.RunsEndWithOneResponsePerCommand : Prop :=
  (∀ (inputs : List HostInput) (s : State), s.ready → s.pending = [] →
    ∃ t, run inputs s = .next t ∧ t.pending = [] ∧ t.ready ∧
      t.responses.length =
        s.responses.length + (inputs.filter fun x => decide (x ≠ .reset)).length ∧
      (t.errMark = true ↔
        s.errMark = true ∨ ∃ w e, HostInput.command w ∈ inputs ∧ decode w = .error e)) ∧
  ∀ inputs : List HostInput, ∃ t u,
    runFromPowerUp inputs = .next t ∧ run inputs State.reset = .next u ∧ observe t = observe u ∧
    (observe t).responses.length = (inputs.filter fun x => decide (x ≠ .reset)).length ∧
    (observe t).sawErr = (observe t).responses.any Response.isErr

/-- R89: in any interleaving of the two units' commands each unit ends in the state, and gives the
responses, of its own commands alone. -/
def Obligations.InterleavingIsUnitByUnit : Prop :=
  ∀ (is : List Instr) (s : State), s.ready → s.pending = [] →
    ∃ t ck sg rs ckRs sgRs,
      runCommands is s = .next t ∧
      runCommands (is.filter fun i => !i.isSignature) s = .next ck ∧
      runCommands (is.filter fun i => i.isSignature) s = .next sg ∧
      t.acc = ck.acc ∧ t.carry = ck.carry ∧ t.crc = sg.crc ∧
      t.responses = s.responses ++ rs ∧
      ck.responses = s.responses ++ ckRs ∧ sg.responses = s.responses ++ sgRs ∧
      rs.length = is.length ∧
      ((is.zip rs).filter fun p => !p.1.isSignature).map Prod.snd = ckRs ∧
      ((is.zip rs).filter fun p => p.1.isSignature).map Prod.snd = sgRs

-- ## Folds

/-- R61: `CKFOLD P` and `CKSUM` leave the loop's `acc` and `cy` and answer the document's checksum
byte; an empty payload gives 0x00, and the document's scenario gives 0xFD. -/
def Obligations.ChecksumFoldComputesTheDocumentsByte : Prop :=
  (∀ (payload : List Byte) (s : State), s.ready → s.pending = [] →
    ∃ t, runCommands (ckfold payload ++ [.cksum]) s = .next t ∧
      t.acc.toNat = (docChecksumLoop (0, 0) payload.reverse).1 ∧
      t.carry.toNat = (docChecksumLoop (0, 0) payload.reverse).2 ∧
      t.crc = s.crc ∧
      t.responses = s.responses ++ List.replicate (payload.length + 1) .none ++
        [.data (BitVec.ofNat 8 (docChecksum payload))]) ∧
  docChecksum [] = 0x00 ∧ docChecksum [0x01#8, 0x02#8] = 0xFD

/-- R62: what the patch byte guarantees, exactly. `(A + c) mod 256 = 0` always; the forward fold over
`[c] + P` ends with `(Kf - Kr) mod 256`, so at 0 exactly when `Kf` and `Kr` agree modulo 256; with the
rule's counterexample and its example. -/
def Obligations.PatchByteGuarantee : Prop :=
  (∀ (payload : List Byte) (s : State), s.ready → s.pending = [] →
    ∃ t c u, runCommands (ckfold payload ++ [.cksum]) s = .next t ∧ lastData t = some c ∧
      (t.acc.toNat + c.toNat) % 256 = 0 ∧
      runCommands (.ckclr :: (c :: payload).map .ckadc) s = .next u ∧
      (u.acc.toNat : Int) =
        ((carriesFedBack (0, 0) (c :: payload) : Int) -
          (carriesFedBack (0, 0) payload.reverse : Int)) % 256 ∧
      (u.acc = 0x00#8 ↔
        carriesFedBack (0, 0) (c :: payload) % 256 =
          carriesFedBack (0, 0) payload.reverse % 256)) ∧
  docChecksum [0x01#8, 0x00#8] = 0xFF ∧
  docChecksumLoop (0, 0) [0x00#8, 0x01#8] = (0x01, 0) ∧
  docChecksumLoop (0, 0) [0xFF#8, 0x01#8, 0x00#8] = (0x01, 0) ∧
  docChecksum [0x01#8, 0x02#8] = 0xFD ∧
  docChecksumLoop (0, 0) [0xFD#8, 0x01#8, 0x02#8] = (0x00, 1)

/-- R67: `CRCFOLD` and `RDSIG` answer the low and the high byte of the document's signature; the single
byte 0x00 gives 0xE1F0, and an empty sequence 0xFFFF. -/
def Obligations.SignatureFoldComputesTheDocumentsValue : Prop :=
  (∀ (bytes : List Byte) (s : State), s.ready → s.pending = [] →
    ∃ t, runCommands (crcfold bytes ++ rdsig) s = .next t ∧
      t.crc.toNat = docSignature bytes ∧ t.acc = s.acc ∧ t.carry = s.carry ∧
      t.responses = s.responses ++ List.replicate (bytes.length + 1) .none ++
        [.data (BitVec.ofNat 8 (docSignature bytes % 256)),
         .data (BitVec.ofNat 8 (docSignature bytes / 256))]) ∧
  docSignature [0x00#8] = 0xE1F0 ∧ docSignature [] = 0xFFFF

/-- R84: a fold begun without its initialising command continues from the state the unit holds, and
directly after reset it gives what the fold with that command gives. -/
def Obligations.FoldWithoutInitContinues : Prop :=
  (∀ (bytes : List Byte) (s : State), s.ready → s.pending = [] →
    ∃ t u, runCommands (bytes.map .ckadc) s = .next t ∧
      (t.acc.toNat, t.carry.toNat) = docChecksumLoop (s.acc.toNat, s.carry.toNat) bytes ∧
      runCommands (bytes.map .crcbyte) s = .next u ∧
      u.crc.toNat = docCrcLoop s.crc.toNat bytes) ∧
  ∀ bytes : List Byte, ∃ t t' u u',
    runCommands (bytes.reverse.map .ckadc) State.reset = .next t ∧
    runCommands (ckfold bytes) State.reset = .next t' ∧ t.acc = t'.acc ∧ t.carry = t'.carry ∧
    runCommands (bytes.map .crcbyte) State.reset = .next u ∧
    runCommands (crcfold bytes) State.reset = .next u' ∧ u.crc = u'.crc

/-- R68: the byte-at-a-time form. The table's entry `T[i]` is R64's loop from `r = i << 8`, and for
every `CRC` and `b` the command gives `((CRC << 8) & 0xFFFF) ^ T[(CRC >> 8) ^ b]`. -/
def Obligations.TableFormAgreesWithTheRounds : Prop :=
  crcTable.length = 256 ∧
  (∀ i : Byte, ∃ e, crcTable[i.toNat]? = some e ∧ e.toNat = docCrcRepeat 8 (i.toNat <<< 8)) ∧
  ∀ (b : Byte) (s : State), ∃ t e, exec (.crcbyte b) s = .next t ∧
    crcTable[(s.crc.toNat / 256) ^^^ b.toNat]? = some e ∧ t.crc = (s.crc <<< 8) ^^^ e

/-- R69: `CRCBYTE` is linear over GF(2) in the pair `(CRC, b)`, zero stays zero, and the signature of
the ASCII bytes "123456789" is 0x29B1 (V-S12). -/
def Obligations.CrcbyteIsLinear : Prop :=
  (∀ (b1 b2 : Byte) (s1 s2 : State), ∃ t1 t2 t,
    exec (.crcbyte b1) s1 = .next t1 ∧ exec (.crcbyte b2) s2 = .next t2 ∧
    exec (.crcbyte (b1 ^^^ b2)) { s1 with crc := s1.crc ^^^ s2.crc } = .next t ∧
    t.crc = t1.crc ^^^ t2.crc) ∧
  (∀ s : State, s.crc = 0x0000#16 → ∃ t, exec (.crcbyte 0x00#8) s = .next t ∧ t.crc = 0x0000#16) ∧
  docSignature [0x31#8, 0x32#8, 0x33#8, 0x34#8, 0x35#8, 0x36#8, 0x37#8, 0x38#8, 0x39#8] = 0x29B1

/-- R64, R69: read as polynomials over GF(2), `CRCBYTE b` writes the remainder of
`CRC * x^8 + b * x^16` on division by `x^16 + x^12 + x^5 + 1`. That 0x1021 stands for this polynomial,
with an implicit `x^16` term, R69 marks as general knowledge, not in the source. -/
def Obligations.CrcbyteIsPolynomialRemainder : Prop :=
  let poly (n v : Nat) : Polynomial (ZMod 2) :=
    ∑ k ∈ Finset.range n, if v.testBit k then Polynomial.X ^ k else 0
  ∀ (b : Byte) (s : State), ∃ t, exec (.crcbyte b) s = .next t ∧
    poly 16 t.crc.toNat =
      (poly 16 s.crc.toNat * Polynomial.X ^ 8 + poly 8 b.toNat * Polynomial.X ^ 16) %ₘ
        (Polynomial.X ^ 16 + Polynomial.X ^ 12 + Polynomial.X ^ 5 + 1)

/-- R91, R37: `CRCLO` latches nothing. Whatever inputs stand between `CRCLO` and `CRCHI`, the first
answers the low byte of `CRC` before them and the second the high byte of `CRC` after them; with no
`CRCBYTE`, `CRCINIT` or reset among them the two bytes are of one value; the bytes with one of each
between; and for each of the three a case where the pair is neither value. Where a reset stands between
the reads, that the record of earlier responses stays through it is the model's reading of R94 and D18
(log 4, DEDUCED), not R91's word. -/
def Obligations.SplitReadIsNotLatched : Prop :=
  let split (between : List HostInput) : List HostInput :=
    .command (encode .crclo) :: between ++ [.command (encode .crchi)]
  (∀ (between : List HostInput) (s : State), s.ready → s.pending = [] →
    ∃ m t mid, run between s = .next m ∧ run (split between) s = .next t ∧
      m.responses = s.responses ++ mid ∧ t.crc = m.crc ∧
      t.responses = s.responses ++ [.data (BitVec.ofNat 8 (s.crc.toNat % 256))] ++ mid ++
        [.data (BitVec.ofNat 8 (m.crc.toNat / 256))] ∧
      ((∀ input ∈ between, input ≠ .reset ∧
          ∀ w, input = .command w →
            decode w ≠ .ok .crcinit ∧ ∀ b, decode w ≠ .ok (.crcbyte b)) →
        m.crc = s.crc)) ∧
  (∀ (b : Byte) (s : State), s.ready → s.pending = [] →
    ∃ t u v,
      run (split [.command (encode (.crcbyte b))]) s = .next t ∧
      t.responses = s.responses ++
        [.data (BitVec.ofNat 8 (s.crc.toNat % 256)), .none,
         .data (BitVec.ofNat 8 (docCrcStep s.crc.toNat b / 256))] ∧
      run (split [.command (encode .crcinit)]) s = .next u ∧
      u.responses = s.responses ++
        [.data (BitVec.ofNat 8 (s.crc.toNat % 256)), .none, .data 0xFF#8] ∧
      run (split [.reset]) s = .next v ∧
      v.responses = s.responses ++
        [.data (BitVec.ofNat 8 (s.crc.toNat % 256)), .data 0xFF#8]) ∧
  ∀ input ∈ [HostInput.command (encode (.crcbyte 0x01#8)), .command (encode .crcinit), .reset],
    ∃ (s t : State) (mid : List Response) (lo hi : Byte),
      s.ready ∧ s.pending = [] ∧ run (split [input]) s = .next t ∧
      t.responses = s.responses ++ [.data lo] ++ mid ++ [.data hi] ∧
      256 * hi.toNat + lo.toNat ≠ s.crc.toNat ∧ 256 * hi.toNat + lo.toNat ≠ t.crc.toNat

-- ## The host's side

/-- R51, R52, R53: the pseudo-commands' expansions, command by command, also as source lines. -/
def Obligations.PseudoCommandExpansions : Prop :=
  (∀ s : List Byte, (ckfold s).length = s.length + 1 ∧ (ckfold s)[0]? = some .ckclr ∧
    ∀ k, k < s.length → (ckfold s)[k + 1]? = (s[s.length - 1 - k]?).map .ckadc) ∧
  (∀ s : List Byte, (crcfold s).length = s.length + 1 ∧ (crcfold s)[0]? = some .crcinit ∧
    ∀ k, k < s.length → (crcfold s)[k + 1]? = (s[k]?).map .crcbyte) ∧
  rdsig = [.crclo, .crchi] ∧
  (∀ s : List Byte, expandLine (.ckfold s) = .ok (ckfold s)) ∧
  (∀ s : List Byte, expandLine (.crcfold s) = .ok (crcfold s)) ∧
  expandLine .rdsig = .ok rdsig

/-- R50: each mnemonic, in any letter case, names its own command. `CKADC` and `CRCBYTE` assemble
exactly with an operand in `0 .. 255`, to the command with that operand, and each of the other seven
exactly without an operand, to its own command; a printed word is four hex digits that read back. -/
def Obligations.AssemblerChecksOperands : Prop :=
  (readMnemonic ['C', 'K', 'C', 'L', 'R'] = some .ckclr ∧
    readMnemonic ['C', 'K', 'A', 'D', 'C'] = some .ckadc ∧
    readMnemonic ['C', 'K', 'S', 'U', 'M'] = some .cksum ∧
    readMnemonic ['C', 'K', 'A', 'C', 'C'] = some .ckacc ∧
    readMnemonic ['C', 'K', 'C', 'Y'] = some .ckcy ∧
    readMnemonic ['C', 'R', 'C', 'I', 'N', 'I', 'T'] = some .crcinit ∧
    readMnemonic ['C', 'R', 'C', 'B', 'Y', 'T', 'E'] = some .crcbyte ∧
    readMnemonic ['C', 'R', 'C', 'L', 'O'] = some .crclo ∧
    readMnemonic ['C', 'R', 'C', 'H', 'I'] = some .crchi ∧
    ∀ word other : List Char, word.map Char.toUpper = other.map Char.toUpper →
      readMnemonic word = readMnemonic other) ∧
  (∀ n : Nat, n ≤ 255 →
    expandLine (.command ⟨.ckadc, some n⟩) = .ok [.ckadc (BitVec.ofNat 8 n)] ∧
    expandLine (.command ⟨.crcbyte, some n⟩) = .ok [.crcbyte (BitVec.ofNat 8 n)]) ∧
  (∀ n : Nat, 255 < n →
    expandLine (.command ⟨.ckadc, some n⟩) = .error .badOperand ∧
    expandLine (.command ⟨.crcbyte, some n⟩) = .error .badOperand) ∧
  expandLine (.command ⟨.ckadc, none⟩) = .error .badOperand ∧
  expandLine (.command ⟨.crcbyte, none⟩) = .error .badOperand ∧
  (∀ p ∈ [(Mnemonic.ckclr, Instr.ckclr), (.cksum, .cksum), (.ckacc, .ckacc), (.ckcy, .ckcy),
      (.crcinit, .crcinit), (.crclo, .crclo), (.crchi, .crchi)],
    expandLine (.command ⟨p.1, none⟩) = .ok [p.2] ∧
    ∀ n : Nat, expandLine (.command ⟨p.1, some n⟩) = .error .badOperand) ∧
  ∀ w : Word, (listingWord w).length = 4 ∧ readDigits 16 (listingWord w) 0 = some w.toNat

/-- R50's examples, a comment and lower case, assembled from text. -/
def Obligations.AssemblerReadsTheExamples : Prop :=
  assembleLine ['C', 'K', 'A', 'D', 'C', ' ', '0', 'x', '0', '2'] = .ok [0x0202#16] ∧
  assembleLine ['C', 'R', 'C', 'B', 'Y', 'T', 'E', ' ', '2', '5', '3'] = .ok [0x0AFD#16] ∧
  assembleLine ['C', 'K', 'S', 'U', 'M'] = .ok [0x0300#16] ∧
  assembleLine ['c', 'k', 's', 'u', 'm', ' ', ';', 'x'] = .ok [0x0300#16] ∧
  assembleLine ['C', 'K', 'A', 'D', 'C', ' ', '2', '5', '6'] = .error .badOperand

/-- R88 with R85, R86, R87: for an image of at least three bytes the host's sequence captures the
stored bytes, patches byte 2 with the document's checksum, then bytes 0 and 1 with the document's
signature of the patched bytes 2 to the end, says what changed, and issues `2N` commands. -/
def Obligations.HostPatchFollowsTheDocument : Prop :=
  ∀ (oldLo oldHi oldCk : Byte) (payload : List Byte) (s : State), s.ready → s.pending = [] →
    ∃ r, hostPatch (oldLo :: oldHi :: oldCk :: payload) s = .ok r ∧
      r.oldLo = oldLo ∧ r.oldHi = oldHi ∧ r.oldCk = oldCk ∧
      r.c.toNat = docChecksum payload ∧
      r.lo.toNat = docSignature (r.c :: payload) % 256 ∧
      r.hi.toNat = docSignature (r.c :: payload) / 256 ∧
      r.ckChanged = (r.c != oldCk) ∧ r.sigChanged = (r.lo != oldLo || r.hi != oldHi) ∧
      r.image = r.lo :: r.hi :: r.c :: payload ∧
      r.block.responses.length = s.responses.length + 2 * (payload.length + 3) ∧
      r.block.errMark = s.errMark

/-- R95: a second run of the host's sequence on the first one's image changes nothing and reports all
three fields as already correct; and the three-byte boundary. -/
def Obligations.HostPatchIsIdempotent : Prop :=
  (∀ (img : List Byte) (s s2 : State) (r : PatchResult),
    s.ready → s.pending = [] → s2.ready → s2.pending = [] → hostPatch img s = .ok r →
      ∃ r2, hostPatch r.image s2 = .ok r2 ∧
        r2.ckChanged = false ∧ r2.sigChanged = false ∧ r2.image = r.image) ∧
  ∀ (b0 b1 b2 : Byte) (s : State), s.ready → s.pending = [] →
    ∃ r, hostPatch [b0, b1, b2] s = .ok r ∧ r.c = 0x00#8 ∧ r.lo = 0xF0#8 ∧ r.hi = 0xE1#8

/-- R96: the computed fields do not depend on the stored ones: images with the same payload get the
same checksum and signature, whatever their header bytes, and whatever the block held before. -/
def Obligations.HeaderBytesDoNotEnterTheResult : Prop :=
  ∀ (a0 a1 a2 b0 b1 b2 : Byte) (payload : List Byte) (s s2 : State),
    s.ready → s.pending = [] → s2.ready → s2.pending = [] →
      ∃ r r2, hostPatch (a0 :: a1 :: a2 :: payload) s = .ok r ∧
        hostPatch (b0 :: b1 :: b2 :: payload) s2 = .ok r2 ∧
        r.c = r2.c ∧ r.lo = r2.lo ∧ r.hi = r2.hi ∧ r.image = r2.image

/-- R30, D20: the host's sequence refuses exactly the images shorter than three bytes as too short. -/
def Obligations.HostRefusesShortImages : Prop :=
  ∀ (img : List Byte) (s : State), s.ready → s.pending = [] →
    (hostPatch img s = .error .imageTooShort ↔ img.length < 3)
end

