-- ==== Sys2Proof/Laws/PerInstr.lean ====
section
/-! SUPPORT. Facts about each command as syntax, one lemma per constructor. -/

namespace Sys2Proof.Laws.EncodingFields

/-- The encoding's fields (R41, R43): `RSV` is zero, and `OP[3]` selects the unit. -/
def Statement (i : Instr) : Prop :=
  rsvField (encode i) = 0#4 ∧ (opField (encode i)).getLsbD 3 = i.isSignature ∧
    dataField (encode i) = dataOf i

theorem ckclr : Statement .ckclr := by unfold Statement; decide

theorem ckadc (b : Byte) : Statement (.ckadc b) := by
  unfold Statement; revert b; decide

theorem cksum : Statement .cksum := by unfold Statement; decide

theorem ckacc : Statement .ckacc := by unfold Statement; decide

theorem ckcy : Statement .ckcy := by unfold Statement; decide

theorem crcinit : Statement .crcinit := by unfold Statement; decide

theorem crcbyte (b : Byte) : Statement (.crcbyte b) := by
  unfold Statement; revert b; decide

theorem crclo : Statement .crclo := by unfold Statement; decide

theorem crchi : Statement .crchi := by unfold Statement; decide

end Sys2Proof.Laws.EncodingFields
end

