-- ==== Sys2Proof/Laws/State.lean ====
section
/-! SUPPORT. One lemma per field per update of the state, so that no proof unfolds a record update, and
the fields of the two initial states. -/

namespace Sys2Proof.Machine

@[simp] theorem writeChecksum_acc (a : Byte) (c : Bit) (s : State) : (writeChecksum a c s).acc = a := rfl
@[simp] theorem writeChecksum_carry (a : Byte) (c : Bit) (s : State) : (writeChecksum a c s).carry = c := rfl
@[simp] theorem writeChecksum_crc (a : Byte) (c : Bit) (s : State) : (writeChecksum a c s).crc = s.crc := rfl
@[simp] theorem writeChecksum_pending (a : Byte) (c : Bit) (s : State) : (writeChecksum a c s).pending = s.pending := rfl
@[simp] theorem writeChecksum_responses (a : Byte) (c : Bit) (s : State) : (writeChecksum a c s).responses = s.responses := rfl
@[simp] theorem writeChecksum_errMark (a : Byte) (c : Bit) (s : State) : (writeChecksum a c s).errMark = s.errMark := rfl
@[simp] theorem writeChecksum_resetSeen (a : Byte) (c : Bit) (s : State) : (writeChecksum a c s).resetSeen = s.resetSeen := rfl

@[simp] theorem writeCrc_acc (v : Word) (s : State) : (writeCrc v s).acc = s.acc := rfl
@[simp] theorem writeCrc_carry (v : Word) (s : State) : (writeCrc v s).carry = s.carry := rfl
@[simp] theorem writeCrc_crc (v : Word) (s : State) : (writeCrc v s).crc = v := rfl
@[simp] theorem writeCrc_pending (v : Word) (s : State) : (writeCrc v s).pending = s.pending := rfl
@[simp] theorem writeCrc_responses (v : Word) (s : State) : (writeCrc v s).responses = s.responses := rfl
@[simp] theorem writeCrc_errMark (v : Word) (s : State) : (writeCrc v s).errMark = s.errMark := rfl
@[simp] theorem writeCrc_resetSeen (v : Word) (s : State) : (writeCrc v s).resetSeen = s.resetSeen := rfl

@[simp] theorem respond_acc (r : Response) (s : State) : (respond r s).acc = s.acc := rfl
@[simp] theorem respond_carry (r : Response) (s : State) : (respond r s).carry = s.carry := rfl
@[simp] theorem respond_crc (r : Response) (s : State) : (respond r s).crc = s.crc := rfl
@[simp] theorem respond_pending (r : Response) (s : State) : (respond r s).pending = s.pending := rfl
@[simp] theorem respond_responses (r : Response) (s : State) : (respond r s).responses = s.responses ++ [r] := rfl
@[simp] theorem respond_errMark (r : Response) (s : State) : (respond r s).errMark = s.errMark := rfl
@[simp] theorem respond_resetSeen (r : Response) (s : State) : (respond r s).resetSeen = s.resetSeen := rfl

@[simp] theorem withPending_acc (inputs : List HostInput) (s : State) : (withPending inputs s).acc = s.acc := rfl
@[simp] theorem withPending_carry (inputs : List HostInput) (s : State) : (withPending inputs s).carry = s.carry := rfl
@[simp] theorem withPending_crc (inputs : List HostInput) (s : State) : (withPending inputs s).crc = s.crc := rfl
@[simp] theorem withPending_pending (inputs : List HostInput) (s : State) : (withPending inputs s).pending = inputs := rfl
@[simp] theorem withPending_responses (inputs : List HostInput) (s : State) : (withPending inputs s).responses = s.responses := rfl
@[simp] theorem withPending_errMark (inputs : List HostInput) (s : State) : (withPending inputs s).errMark = s.errMark := rfl
@[simp] theorem withPending_resetSeen (inputs : List HostInput) (s : State) : (withPending inputs s).resetSeen = s.resetSeen := rfl

@[simp] theorem takeIllegalCommand_acc (cmd : Word) (s : State) : (takeIllegalCommand cmd s).acc = s.acc := rfl
@[simp] theorem takeIllegalCommand_carry (cmd : Word) (s : State) : (takeIllegalCommand cmd s).carry = s.carry := rfl
@[simp] theorem takeIllegalCommand_crc (cmd : Word) (s : State) : (takeIllegalCommand cmd s).crc = s.crc := rfl
@[simp] theorem takeIllegalCommand_pending (cmd : Word) (s : State) : (takeIllegalCommand cmd s).pending = s.pending := rfl
@[simp] theorem takeIllegalCommand_responses (cmd : Word) (s : State) : (takeIllegalCommand cmd s).responses = s.responses ++ [.err illegalCommandCode cmd] := rfl
@[simp] theorem takeIllegalCommand_errMark (cmd : Word) (s : State) : (takeIllegalCommand cmd s).errMark = true := rfl
@[simp] theorem takeIllegalCommand_resetSeen (cmd : Word) (s : State) : (takeIllegalCommand cmd s).resetSeen = s.resetSeen := rfl

@[simp] theorem takeReset_acc (s : State) : (takeReset s).acc = ckAccInit := rfl
@[simp] theorem takeReset_carry (s : State) : (takeReset s).carry = ckCarryInit := rfl
@[simp] theorem takeReset_crc (s : State) : (takeReset s).crc = crcInit := rfl
@[simp] theorem takeReset_pending (s : State) : (takeReset s).pending = s.pending := rfl
@[simp] theorem takeReset_responses (s : State) : (takeReset s).responses = s.responses := rfl
@[simp] theorem takeReset_errMark (s : State) : (takeReset s).errMark = s.errMark := rfl
@[simp] theorem takeReset_resetSeen (s : State) : (takeReset s).resetSeen = true := rfl

@[simp] theorem State.reset_acc : State.reset.acc = ckAccInit := rfl
@[simp] theorem State.reset_carry : State.reset.carry = ckCarryInit := rfl
@[simp] theorem State.reset_crc : State.reset.crc = crcInit := rfl
@[simp] theorem State.reset_pending : State.reset.pending = [] := rfl
@[simp] theorem State.reset_responses : State.reset.responses = [] := rfl
@[simp] theorem State.reset_errMark : State.reset.errMark = false := rfl
@[simp] theorem State.reset_resetSeen : State.reset.resetSeen = true := rfl

@[simp] theorem State.powerUp_acc : State.powerUp.acc = Config.powerUpAcc := rfl
@[simp] theorem State.powerUp_carry : State.powerUp.carry = Config.powerUpCarry := rfl
@[simp] theorem State.powerUp_crc : State.powerUp.crc = Config.powerUpCrc := rfl
@[simp] theorem State.powerUp_pending : State.powerUp.pending = [] := rfl
@[simp] theorem State.powerUp_responses : State.powerUp.responses = [] := rfl
@[simp] theorem State.powerUp_errMark : State.powerUp.errMark = false := rfl
@[simp] theorem State.powerUp_resetSeen : State.powerUp.resetSeen = false := rfl

end Sys2Proof.Machine
end

