-- ==== Sys2Proof/Laws/Step.lean ====
section
/-! SUPPORT. The step and its parts: one lemma per field for the host's channel, and for each part of
the step one lemma that says everything it can do. -/

namespace Sys2Proof.Machine

@[simp] theorem issue_acc (inputs : List HostInput) (s : State) : (issue inputs s).acc = s.acc := rfl
@[simp] theorem issue_carry (inputs : List HostInput) (s : State) : (issue inputs s).carry = s.carry := rfl
@[simp] theorem issue_crc (inputs : List HostInput) (s : State) : (issue inputs s).crc = s.crc := rfl
@[simp] theorem issue_pending (inputs : List HostInput) (s : State) : (issue inputs s).pending = s.pending ++ inputs := rfl
@[simp] theorem issue_responses (inputs : List HostInput) (s : State) : (issue inputs s).responses = s.responses := rfl
@[simp] theorem issue_errMark (inputs : List HostInput) (s : State) : (issue inputs s).errMark = s.errMark := rfl
@[simp] theorem issue_resetSeen (inputs : List HostInput) (s : State) : (issue inputs s).resetSeen = s.resetSeen := rfl

@[simp] theorem issueNext_acc (cmd : Word) (s : State) : (issueNext cmd s).acc = s.acc := rfl
@[simp] theorem issueNext_carry (cmd : Word) (s : State) : (issueNext cmd s).carry = s.carry := rfl
@[simp] theorem issueNext_crc (cmd : Word) (s : State) : (issueNext cmd s).crc = s.crc := rfl
@[simp] theorem issueNext_pending (cmd : Word) (s : State) : (issueNext cmd s).pending = .command cmd :: s.pending := rfl
@[simp] theorem issueNext_responses (cmd : Word) (s : State) : (issueNext cmd s).responses = s.responses := rfl
@[simp] theorem issueNext_errMark (cmd : Word) (s : State) : (issueNext cmd s).errMark = s.errMark := rfl
@[simp] theorem issueNext_resetSeen (cmd : Word) (s : State) : (issueNext cmd s).resetSeen = s.resetSeen := rfl

/-- What a command can do (R73): it runs a decoded instruction, or takes the exception. -/
theorem runCommand_cases {cmd : Word} {s t : State} (h : runCommand cmd s = .next t) :
    (∃ i, decode cmd = .ok i ∧ exec i s = .next t) ∨
      (∃ e, decode cmd = .error e) ∧ t = takeIllegalCommand cmd s := by
  unfold runCommand at h
  split at h
  · exact .inl ⟨_, ‹_›, h⟩
  · exact .inr ⟨⟨_, ‹_›⟩, by cases h; rfl⟩

/-- What an input can do (R81, R82): a reset resets, and a command runs only after the first reset. -/
theorem serveInput_cases {input : HostInput} {s t : State} (h : serveInput input s = .next t) :
    (input = .reset ∧ t = takeReset s) ∨
      ∃ cmd, input = .command cmd ∧ s.resetSeen = true ∧ runCommand cmd s = .next t := by
  unfold serveInput at h
  split at h
  · exact .inl ⟨rfl, by cases h; rfl⟩
  · split at h
    · exact .inr ⟨_, rfl, ‹_›, h⟩
    · cases h

/-- What a step can do: wait with nothing pending, take a reset, run a decoded command, or take the
exception of an illegal word. -/
theorem step_cases {s t : State} (h : step s = .next t) :
    (s.pending = [] ∧ t = s) ∨
      ∃ input rest, s.pending = input :: rest ∧
        ((input = .reset ∧ t = takeReset (withPending rest s)) ∨
          ∃ cmd, input = .command cmd ∧ s.resetSeen = true ∧
            ((∃ i, decode cmd = .ok i ∧ exec i (withPending rest s) = .next t) ∨
              (∃ e, decode cmd = .error e) ∧ t = takeIllegalCommand cmd (withPending rest s))) := by
  unfold step serveNext at h
  split at h
  · exact .inl ⟨‹_›, by cases h; rfl⟩
  · refine .inr ⟨_, _, ‹_›, ?_⟩
    obtain ⟨rfl, rfl⟩ | ⟨cmd, rfl, hr, hc⟩ := serveInput_cases h
    · exact .inl ⟨rfl, rfl⟩
    · exact .inr ⟨cmd, rfl, hr, runCommand_cases hc⟩

/-- The word of an opcode-table row is served first by the step after `withFetchWord` (log 1). -/
theorem step_withFetchWord (s : State) (nbits w : Nat) :
    step (s.withFetchWord nbits w) =
      if s.resetSeen then runCommand (tableWord nbits w) s else .refused .commandBeforeReset := rfl

/-- Runs without a step end at once. -/
@[simp] theorem runSteps_zero (s : State) : runSteps 0 s = .next s := rfl

/-- A step that answers a next state is the run's first step. -/
theorem runSteps_succ {s t : State} (n : Nat) (h : step s = .next t) :
    runSteps (n + 1) s = runSteps n t := by
  simp [runSteps, h]

/-- The inputs of one more command. -/
@[simp] theorem commandInputs_cons (i : Instr) (is : List Instr) :
    commandInputs (i :: is) = .command (encode i) :: commandInputs is := rfl

/-- No commands, no inputs. -/
@[simp] theorem commandInputs_nil : commandInputs [] = [] := rfl

/-- The inputs of commands after commands. -/
@[simp] theorem commandInputs_append (a b : List Instr) :
    commandInputs (a ++ b) = commandInputs a ++ commandInputs b := by
  simp [commandInputs]

end Sys2Proof.Machine
end

