-- ==== Sys2Proof/Laws/Values.lean ====
section
/-! SUPPORT. The values the operations compute, said once each over natural numbers (spec/00_scope.md
R8), and the shape of a shift round. -/

namespace Sys2Proof.Machine

/-- The sum fits nine bits (R57). -/
theorem checksumSum_le (acc : Byte) (carry : Bit) (b : Byte) : checksumSum acc carry b ≤ 0x1FF := by
  unfold checksumSum checksumOperand
  omega

/-- The flag is bit 8 of a sum that fits nine bits (R57). -/
theorem carryOut_toNat {n : Nat} (h : n ≤ 0x1FF) : (carryOut n).toNat = n / 256 := by
  rw [carryOut, BitVec.toNat_ofNat, Nat.shiftRight_eq_div_pow]
  omega

/-- The accumulator is the sum modulo 256 (R57). -/
theorem accOut_toNat (n : Nat) : (accOut n).toNat = n % 256 := by
  have h : n &&& 0xFF = n % 256 := Nat.and_two_pow_sub_one_eq_mod n 8
  rw [accOut, BitVec.toNat_ofNat, h]
  omega

/-- The patch byte (R58). -/
theorem patchByte_toNat (acc : Byte) : (patchByte acc).toNat = (256 - acc.toNat) % 256 := by
  have h : (256 - acc.toNat) &&& 0xFF = (256 - acc.toNat) % 256 :=
    Nat.and_two_pow_sub_one_eq_mod _ 8
  rw [patchByte, BitVec.toNat_ofNat, h]
  omega

/-- The flag as a byte (R60). -/
theorem carryByte_toNat (carry : Bit) : (carryByte carry).toNat = carry.toNat := by
  rw [carryByte, BitVec.toNat_setWidth]
  omega

/-- The signature's low byte (R65). -/
theorem crcLowByte_toNat (crc : Word) : (crcLowByte crc).toNat = crc.toNat % 256 := by
  simp [crcLowByte]

/-- The signature's high byte (R66). -/
theorem crcHighByte_toNat (crc : Word) : (crcHighByte crc).toNat = crc.toNat / 256 := by
  simp [crcHighByte, Nat.shiftRight_eq_div_pow]
  omega

/-- The operand stands at bits 15:8 (R64). -/
theorem crcOperand_toNat (b : Byte) : (crcOperand b).toNat = 256 * b.toNat := by
  simp [crcOperand, Nat.shiftLeft_eq]
  omega

/-- No rounds leave the register. -/
@[simp] theorem crcRounds_zero (r : Word) : crcRounds 0 r = r := rfl

/-- One more round is run first. -/
@[simp] theorem crcRounds_succ (n : Nat) (r : Word) :
    crcRounds (n + 1) r = crcRounds n (crcRound r) := rfl

/-- A round with bit 15 set feeds the polynomial back (R64). -/
theorem crcRound_of_bit {r : Word} (h : r.getLsbD 15 = true) :
    crcRound r = (r <<< 1) ^^^ crcPoly := if_pos h

/-- A round with bit 15 clear only shifts (R64). -/
theorem crcRound_of_no_bit {r : Word} (h : r.getLsbD 15 = false) : crcRound r = r <<< 1 :=
  if_neg (by simp only [h]; decide)

/-- Adding the same word twice to a sum of words leaves the sum. -/
theorem xor_xor_cancel (a b p : Word) : (a ^^^ p) ^^^ (b ^^^ p) = a ^^^ b := by
  rw [BitVec.xor_assoc, BitVec.xor_comm b p, ← BitVec.xor_assoc p, BitVec.xor_self, BitVec.zero_xor]

/-- A round is linear over GF(2): bit 15 of a sum is the sum of the bits (R69). -/
theorem crcRound_xor (r q : Word) : crcRound (r ^^^ q) = crcRound r ^^^ crcRound q := by
  have hx : (r ^^^ q).getLsbD 15 = (r.getLsbD 15 ^^ q.getLsbD 15) := BitVec.getLsbD_xor
  have hs : (r ^^^ q) <<< 1 = (r <<< 1) ^^^ (q <<< 1) := BitVec.shiftLeft_xor_distrib ..
  cases hr : r.getLsbD 15 <;> cases hq : q.getLsbD 15 <;> rw [hr, hq] at hx
  · rw [crcRound_of_no_bit hx, crcRound_of_no_bit hr, crcRound_of_no_bit hq, hs]
  · rw [crcRound_of_bit hx, crcRound_of_no_bit hr, crcRound_of_bit hq, hs, BitVec.xor_assoc]
  · rw [crcRound_of_bit hx, crcRound_of_bit hr, crcRound_of_no_bit hq, hs]; ac_rfl
  · rw [crcRound_of_no_bit hx, crcRound_of_bit hr, crcRound_of_bit hq, hs, xor_xor_cancel]

/-- A command without an operand is accepted exactly with a zero data field (R46). -/
theorem withoutOperand_eq_ok {d : Byte} {i j : Instr} :
    withoutOperand d i = .ok j ↔ d = 0x00#8 ∧ i = j := by
  unfold withoutOperand
  split <;> simp [*]

end Sys2Proof.Machine
end

