-- ==== Sys2Proof/Tests/Slice0.lean ====
section
/-! SUPPORT. The model's own tests: expected values are the spec's printed vectors
(spec/95_test_vectors.md) or words written out from spec/30_encoding.md R45; and a witness for the
hypotheses of every statement that has some. -/

namespace Sys2Proof.Tests

open Sys2Proof.Machine

-- ## Helpers

/-- A state with the given registers, after a reset. -/
def regs (acc : Byte) (carry : Bit) (crc : Word) : State :=
  { State.reset with acc := acc, carry := carry, crc := crc }

/-- The state after a reset with inputs waiting. -/
def waiting (inputs : List HostInput) : State := { State.reset with pending := inputs }

/-- The next state, where there is one. -/
def nextOf (o : Host.Outcome State Fault Refusal) : Option State :=
  match o with
  | .next t => some t
  | .fault _ => none
  | .refused _ => none

/-- Whether the outcome is the refusal before reset. -/
def refusedBeforeReset (o : Host.Outcome State Fault Refusal) : Bool :=
  match o with
  | .refused r => decide (r = .commandBeforeReset)
  | _ => false

/-- The checksum unit's registers after one command, with the response. -/
def checksumAfter (i : Instr) (s : State) : Option (Byte × Bit × Option Response) :=
  (nextOf (exec i s)).map fun t => (t.acc, t.carry, t.responses.getLast?)

/-- The signature unit's register after one command, with the response. -/
def crcAfter (i : Instr) (s : State) : Option (Word × Option Response) :=
  (nextOf (exec i s)).map fun t => (t.crc, t.responses.getLast?)

-- ## Well-formedness smoke: a term that each check refuses

theorem test_wf_missing_operand_refused : (SourceCommand.mk .ckadc none).wellFormed = false := by decide
theorem test_wf_superfluous_operand_refused : (SourceCommand.mk .cksum (some 0)).wellFormed = false := by
  decide
theorem test_wf_operand_256_refused : (SourceCommand.mk .crcbyte (some 256)).wellFormed = false := by decide
theorem test_wf_operand_255_accepted : (SourceCommand.mk .crcbyte (some 255)).wellFormed = true := by decide
theorem test_wf_line_refused : (SourceLine.command ⟨.ckadc, none⟩).wellFormed = false := by decide
theorem test_wf_image_of_two_refused : imageWellFormed [0x00#8, 0x00#8] = false := by decide
theorem test_wf_image_of_three_accepted : imageWellFormed [0x00#8, 0x00#8, 0x00#8] = true := by decide
theorem test_wf_instr : (Instr.ckadc 0xFF#8).wellFormed = true := by decide

-- ## Decoding: words from R45's bit patterns

theorem test_decode_ckclr : decode 0b0000000100000000#16 = .ok .ckclr := by decide
theorem test_decode_ckadc : decode 0b0000001011111111#16 = .ok (.ckadc 0xFF#8) := by decide
theorem test_decode_cksum : decode 0b0000001100000000#16 = .ok .cksum := by decide
theorem test_decode_ckacc : decode 0b0000010000000000#16 = .ok .ckacc := by decide
theorem test_decode_ckcy : decode 0b0000010100000000#16 = .ok .ckcy := by decide
theorem test_decode_crcinit : decode 0b0000100100000000#16 = .ok .crcinit := by decide
theorem test_decode_crcbyte : decode 0b0000101011111101#16 = .ok (.crcbyte 0xFD#8) := by decide
theorem test_decode_crclo : decode 0b0000101100000000#16 = .ok .crclo := by decide
theorem test_decode_crchi : decode 0b0000110000000000#16 = .ok .crchi := by decide

/-- V-E1 to V-E7: every reserved opcode. -/
theorem test_decode_reserved_opcodes :
    [0x0000#16, 0x0600#16, 0x0700#16, 0x0800#16, 0x0D00#16, 0x0E00#16, 0x0F00#16].all
      (fun w => decide (decode w = .error .reservedOpcode)) = true := by decide
/-- V-E8, V-E9, V-E13: `RSV` is not zero. -/
theorem test_decode_reserved_field :
    [0x1100#16, 0x8200#16, 0xF2FF#16].all
      (fun w => decide (decode w = .error .reservedField)) = true := by decide
/-- V-E10, V-E11, V-E12: `D` is not zero on a command without an operand. -/
theorem test_decode_data_not_zero :
    [0x0101#16, 0x0380#16, 0x0B01#16].all
      (fun w => decide (decode w = .error .dataNotZero)) = true := by decide

/-- R50: `CKADC 0x02` is 0x0202, `CRCBYTE 253` is 0x0AFD, `CKSUM` is 0x0300. -/
theorem test_encode_examples :
    [encode (.ckadc 0x02#8), encode (.crcbyte 253#8), encode .cksum] =
      [0x0202#16, 0x0AFD#16, 0x0300#16] := by decide

/-- P7's bytes, low byte first. -/
theorem test_words_of_bytes :
    wordsOfBytes [0x00#8, 0x09#8, 0xFD#8, 0x0A#8] = some [0x0900#16, 0x0AFD#16] := by decide

theorem test_table_word : decodeTableWord 16 0x0AFF = some (.crcbyte 0xFF#8) := by decide
theorem test_table_word_refused : decodeTableWord 16 0x0000 = none := by decide

-- ## One command each

/-- V-C13. -/
theorem test_ckclr :
    checksumAfter .ckclr (regs 0x81#8 1#1 0#16) = some (0x00#8, 0#1, some .none) := by decide
/-- V-C9: a carry in. -/
theorem test_ckadc_carry_in :
    checksumAfter (.ckadc 0x34#8) (regs 0x12#8 1#1 0#16) = some (0x47#8, 0#1, some .none) := by decide
/-- V-C4: the largest sum. -/
theorem test_ckadc_largest_sum :
    checksumAfter (.ckadc 0xFF#8) (regs 0xFF#8 1#1 0#16) = some (0xFF#8, 1#1, some .none) := by decide
/-- V-C12: the carry is ignored. -/
theorem test_cksum_ignores_carry :
    checksumAfter .cksum (regs 0x80#8 1#1 0#16) = some (0x80#8, 1#1, some (.data 0x80#8)) := by decide
/-- V-C12: 0x00 gives 0x00. -/
theorem test_cksum_of_zero :
    checksumAfter .cksum (regs 0x00#8 0#1 0#16) = some (0x00#8, 0#1, some (.data 0x00#8)) := by decide
/-- V-C13. -/
theorem test_ckacc :
    checksumAfter .ckacc (regs 0x81#8 1#1 0#16) = some (0x81#8, 1#1, some (.data 0x81#8)) := by decide
/-- V-C13. -/
theorem test_ckcy :
    checksumAfter .ckcy (regs 0x81#8 1#1 0#16) = some (0x81#8, 1#1, some (.data 0x01#8)) := by decide
/-- V-S1. -/
theorem test_crcinit : crcAfter .crcinit (regs 0#8 0#1 0x7EEC#16) = some (0xFFFF#16, some .none) := by
  decide
/-- V-S8. -/
theorem test_crcbyte :
    crcAfter (.crcbyte 0x56#8) (regs 0#8 0#1 0x1234#16) = some (0x3C40#16, some .none) := by decide
/-- V-S3: the byte cancels the high half. -/
theorem test_crcbyte_cancels :
    crcAfter (.crcbyte 0xFF#8) (regs 0#8 0#1 0xFFFF#16) = some (0xFF00#16, some .none) := by decide
/-- V-S14. -/
theorem test_crclo :
    crcAfter .crclo (regs 0#8 0#1 0x7EEC#16) = some (0x7EEC#16, some (.data 0xEC#8)) := by decide
/-- V-S14. -/
theorem test_crchi :
    crcAfter .crchi (regs 0#8 0#1 0x7EEC#16) = some (0x7EEC#16, some (.data 0x7E#8)) := by decide

/-- W5: the rounds of byte 0x00 from 0xFFFF, after four and after eight. -/
theorem test_crc_rounds : (crcRounds 4 0xFFFF#16, crcRounds 8 0xFFFF#16) = (0x0E1F#16, 0xE1F0#16) := by
  decide
/-- V-S8 in the table form R68. -/
theorem test_crc_table_form : crcStepByTable 0x1234#16 0x56#8 = 0x3C40#16 := by decide

-- ## Single steps of the machine

/-- P4, row 3: an illegal word writes no register and gives `ERR`. -/
theorem test_step_illegal :
    (nextOf (step { regs 0x10#8 0#1 0xFFFF#16 with pending := [.command 0x0600#16] })).map
      (fun t => (t.acc, t.responses, t.errMark)) =
        some (0x10#8, [.err 0x01#8 0x0600#16], true) := by decide
/-- R81, in the middle of a fold. -/
theorem test_step_reset :
    (nextOf (step { regs 0x81#8 1#1 0x7EEC#16 with pending := [.reset] })).map
      (fun t => (t.acc, t.carry, t.crc)) = some (0x00#8, 0#1, 0xFFFF#16) := by decide
/-- R82. -/
theorem test_step_before_reset :
    refusedBeforeReset (step { waiting [.command 0x0100#16] with resetSeen := false }) = true := by decide
/-- An opcode-table word runs as the first instruction after reset. -/
theorem test_step_fetch_word :
    (nextOf (step (State.reset.withFetchWord 16 0x0AFD))).map (fun t => t.crc) = some 0xDF42#16 := by
  decide

-- ## Host text

theorem test_assemble_hex : assembleLine ['C', 'K', 'A', 'D', 'C', ' ', '0', 'x', '0', '2'] =
    .ok [0x0202#16] := by decide
theorem test_assemble_decimal :
    assembleLine ['c', 'r', 'c', 'b', 'y', 't', 'e', '\t', '2', '5', '3', ';', 'a'] =
      .ok [0x0AFD#16] := by decide
theorem test_assemble_rdsig : assembleLine ['R', 'D', 'S', 'I', 'G'] = .ok [0x0B00#16, 0x0C00#16] := by
  decide
theorem test_assemble_range_error :
    assembleLine ['C', 'K', 'A', 'D', 'C', ' ', '2', '5', '6'] = .error .badOperand := by decide
theorem test_assemble_comment_line : assembleText [[';', 'x'], ['C', 'K', 'C', 'Y']] = .ok [0x0500#16] := by
  decide
theorem test_listing : listingWord 0x0AFD#16 = ['0', 'A', 'F', 'D'] := by decide

/-- R51, R52 on two bytes. -/
theorem test_fold_orders :
    (ckfold [0x01#8, 0x02#8], crcfold [0x01#8, 0x02#8]) =
      ([.ckclr, .ckadc 0x02#8, .ckadc 0x01#8], [.crcinit, .crcbyte 0x01#8, .crcbyte 0x02#8]) := by decide

-- ## The printed algorithms against the printed vectors

/-- W1, V-C14, V-C16. -/
theorem test_doc_checksum :
    [docChecksum [0x01#8, 0x02#8], docChecksum [0x80#8, 0x80#8, 0x01#8],
     docChecksum [0xFF#8, 0xFF#8, 0xFF#8, 0xFF#8]] = [0xFD, 0xFF, 0x02] := by decide
/-- W2. -/
theorem test_doc_signature : docSignature [0xFD#8, 0x01#8, 0x02#8] = 0x7EEC := by
  decide +kernel

-- ## Witnesses: the hypotheses of the statements are met together, clause by clause

theorem witness_stored_word_decodes : decode 0x0AFF#16 = .ok (.crcbyte 0xFF#8) := by decide

theorem witness_StepRunsTheDecodedCommand :
    (waiting [.command 0x0202#16, .reset]).ready ∧
    (waiting [.command 0x0202#16, .reset]).pending = .command 0x0202#16 :: [.reset] ∧
    decode 0x0202#16 = .ok (.ckadc 0x02#8) := by decide

theorem witness_IllegalCommandIsPrecise_illegal :
    (waiting [.command 0x0600#16, .command 0x0220#16]).ready ∧
    (waiting [.command 0x0600#16, .command 0x0220#16]).pending =
      .command 0x0600#16 :: [.command 0x0220#16] ∧
    decode 0x0600#16 = .error .reservedOpcode ∧ decode 0x0220#16 = .ok (.ckadc 0x20#8) := by decide

theorem witness_IllegalCommandIsPrecise_legal :
    (waiting [.command 0x0C00#16]).ready ∧
    (waiting [.command 0x0C00#16]).pending = .command 0x0C00#16 :: [] ∧
    decode 0x0C00#16 = .ok .crchi := by decide

theorem witness_IllegalCommandIsTheOnlyException :
    (waiting [.command 0xF2FF#16]).ready ∧
    (nextOf (step (waiting [.command 0xF2FF#16]))).map (fun t => t.responses) =
      some ((waiting [.command 0xF2FF#16]).responses ++ [.err 0x01#8 0xF2FF#16]) := by decide

theorem witness_EachCommandGivesItsOneResponse_command :
    (waiting [.command 0x0500#16]).ready ∧
    (waiting [.command 0x0500#16]).pending = .command 0x0500#16 :: [] := by decide

theorem witness_EachCommandGivesItsOneResponse_illegal :
    (waiting [.command 0x0501#16]).pending = .command 0x0501#16 :: [] ∧
    decode 0x0501#16 = .error .dataNotZero := by decide

theorem witness_EachCommandGivesItsOneResponse_reset :
    (waiting [.reset]).ready ∧ (waiting [.reset]).pending = .reset :: [] := by decide

theorem witness_IdleStepChangesNothing : (regs 0x81#8 1#1 0x7EEC#16).pending = [] := by decide

theorem witness_ResetInputResetsBothUnits :
    ({ regs 0x81#8 1#1 0x7EEC#16 with pending := [.reset], resetSeen := false } : State).pending =
      .reset :: [] := by decide

theorem witness_CommandBeforeResetIsRefused :
    ({ waiting [.command 0x0100#16] with resetSeen := false } : State).resetSeen = false ∧
    ({ waiting [.command 0x0100#16] with resetSeen := false } : State).pending =
      .command 0x0100#16 :: [] := by decide

/-- Every statement about runs asks for a state that is ready with nothing pending; this one is not the
state after reset. -/
theorem witness_ready_with_nothing_pending :
    (regs 0x81#8 1#1 0x7EEC#16).ready ∧ (regs 0x81#8 1#1 0x7EEC#16).pending = [] := by decide

theorem witness_CkclrClearsTheChecksumState_data : (0x01#8 : Byte) ≠ 0x00#8 := by decide

theorem witness_StepKeepsTheInvariant :
    let s : State := { waiting [.command 0x0000#16] with
      responses := [.none, .err 0x01#8 0x0600#16], errMark := true }
    s.Inv ∧ (nextOf (step s)).isSome = true := by decide

theorem witness_RegistersChangeOnlyAtTheirWriters_checksum :
    (nextOf (step (waiting [.command 0x0280#16]))).map (fun t => t.acc) = some 0x80#8 ∧
    (waiting [.command 0x0280#16]).acc ≠ 0x80#8 := by decide

theorem witness_RegistersChangeOnlyAtTheirWriters_signature :
    (nextOf (step (waiting [.command 0x0A00#16]))).map (fun t => t.crc) = some 0xE1F0#16 ∧
    (waiting [.command 0x0A00#16]).crc ≠ 0xE1F0#16 := by decide

theorem witness_UnitsAreDisjoint_checksum :
    (Instr.ckcy ∈ [Instr.ckclr, .cksum, .ckacc, .ckcy]) ∧ ∃ b, Instr.ckadc 0xFF#8 = .ckadc b :=
  ⟨by decide, 0xFF#8, rfl⟩

theorem witness_UnitsAreDisjoint_signature :
    (Instr.crchi ∈ [Instr.crcinit, .crclo, .crchi]) ∧ ∃ b, Instr.crcbyte 0xFF#8 = .crcbyte b :=
  ⟨by decide, 0xFF#8, rfl⟩

theorem witness_ReadsHaveNoSideEffects :
    Instr.crchi ∈ [Instr.cksum, .ckacc, .ckcy, .crclo, .crchi] ∧ Instr.crcinit ∈ [Instr.ckclr, .crcinit] := by
  decide

theorem witness_CrcbyteIsLinear_zero : (regs 0x81#8 1#1 0x0000#16).crc = 0x0000#16 := by decide

/-- A read, an illegal word and a checksum command between the two reads leave `CRC` one value. -/
theorem witness_SplitReadIsNotLatched_unsplit :
    ∀ input ∈ [HostInput.command 0x0B00#16, .command 0x0000#16, .command 0x02FF#16],
      input ≠ .reset ∧ ∀ w, input = .command w →
        decode w ≠ .ok .crcinit ∧ ∀ b, decode w ≠ .ok (.crcbyte b) := by
  intro input h
  simp only [List.mem_cons, List.not_mem_nil, or_false] at h
  rcases h with rfl | rfl | rfl <;>
    exact ⟨by decide, fun w hw => by cases hw; exact ⟨by decide, by decide⟩⟩

/-- The three inputs that split a read are in the statement's list. -/
theorem witness_SplitReadIsNotLatched_split :
    HostInput.reset ∈ [HostInput.command (encode (.crcbyte 0x01#8)), .command (encode .crcinit),
      .reset] := by decide

theorem witness_PseudoCommandExpansions : 1 < [0x01#8, 0x02#8].length := by decide

theorem witness_AssemblerChecksOperands_range : (255 ≤ 255) ∧ 255 < 256 := by decide

theorem witness_AssemblerChecksOperands_no_operand :
    (Mnemonic.crchi, Instr.crchi) ∈ [(Mnemonic.ckclr, Instr.ckclr), (.cksum, .cksum), (.ckacc, .ckacc),
      (.ckcy, .ckcy), (.crcinit, .crcinit), (.crclo, .crclo), (.crchi, .crchi)] := by decide

theorem witness_AssemblerChecksOperands_letter_case :
    ['c', 'k', 'C', 'y'].map Char.toUpper = ['C', 'K', 'C', 'Y'].map Char.toUpper := by decide

theorem witness_HostPatchIsIdempotent :
    State.reset.ready ∧ State.reset.pending = [] ∧
    ∃ r, hostPatch [0x00#8, 0x00#8, 0x00#8] State.reset = .ok r ∧
      r.image = [0xF0#8, 0xE1#8, 0x00#8] :=
  ⟨rfl, rfl, _, rfl, by decide⟩

theorem witness_HostRefusesShortImages :
    [0x00#8, 0x00#8].length < 3 ∧
    hostPatch [0x00#8, 0x00#8] State.reset = .error .imageTooShort := by decide

end Sys2Proof.Tests
end

section
/-! The scope statement (spec/00_scope.md): each part of the step on a legal command word, said once as
an equation. -/

namespace Sys2Proof.Machine

/-- A step with an input pending serves it on the rest of the channel (R39). -/
theorem step_of_pending_cons {s : State} {input : HostInput} {rest : List HostInput}
    (h : s.pending = input :: rest) : step s = serveInput input (withPending rest s) := by
  simp only [step, serveNext, h]

/-- After the first reset a command word goes to the decoder (R82). -/
theorem serveInput_command_of_ready {s : State} (cmd : Word) (h : s.ready) :
    serveInput (.command cmd) s = runCommand cmd s :=
  if_pos h

/-- A legal word performs its command (R73). -/
theorem runCommand_of_decode_ok {cmd : Word} {i : Instr} (s : State) (h : decode cmd = .ok i) :
    runCommand cmd s = exec i s := by
  simp only [runCommand, h]

/-- Settles O6: the step serves the word, the ready block decodes it, and its command runs. -/
theorem stepRunsTheDecodedCommand : Obligations.StepRunsTheDecodedCommand := by
  intro s w rest i hready hpending hdecode
  calc step s
      = serveInput (.command w) (withPending rest s) := step_of_pending_cons hpending
    _ = runCommand w (withPending rest s) := serveInput_command_of_ready w hready
    _ = exec i (withPending rest s) := runCommand_of_decode_ok _ hdecode

end Sys2Proof.Machine
end

section
/-! The state (spec/10_state.md): what one command can write, which unit's registers it reads and
writes, and which inputs a change of a register comes from. -/

namespace Sys2Proof.Machine

/-- What a command can do to the state: a read only answers (R38), and a writer writes the registers of
one unit and answers `NONE` (R16, R17, R18). -/
theorem exec_cases {i : Instr} {s t : State} (h : exec i s = .next t) :
    (i.isRead = true ∧ ∃ v, t = respond (.data v) s) ∨
      ((i = .ckclr ∨ ∃ b, i = .ckadc b) ∧ ∃ a c, t = respond .none (writeChecksum a c s)) ∨
      ((i = .crcinit ∨ ∃ b, i = .crcbyte b) ∧ ∃ v, t = respond .none (writeCrc v s)) := by
  cases i with
  | cksum | ckacc | ckcy | crclo | crchi => cases h; exact .inl ⟨rfl, _, rfl⟩
  | ckclr => cases h; exact .inr (.inl ⟨.inl rfl, _, _, rfl⟩)
  | ckadc b => cases h; exact .inr (.inl ⟨.inr ⟨b, rfl⟩, _, _, rfl⟩)
  | crcinit => cases h; exact .inr (.inr ⟨.inl rfl, _, rfl⟩)
  | crcbyte b => cases h; exact .inr (.inr ⟨.inr ⟨b, rfl⟩, _, rfl⟩)

/-- Only `CKCLR` and `CKADC` write the checksum unit's registers (R16, R17). -/
theorem exec_checksum_writer {i : Instr} {s t : State} (h : exec i s = .next t)
    (hchange : t.acc ≠ s.acc ∨ t.carry ≠ s.carry) : i = .ckclr ∨ ∃ b, i = .ckadc b := by
  obtain ⟨-, v, rfl⟩ | ⟨hi, -⟩ | ⟨-, v, rfl⟩ := exec_cases h
  · simp at hchange
  · exact hi
  · simp at hchange

/-- Only `CRCINIT` and `CRCBYTE` write the signature unit's register (R18). -/
theorem exec_crc_writer {i : Instr} {s t : State} (h : exec i s = .next t)
    (hchange : t.crc ≠ s.crc) : i = .crcinit ∨ ∃ b, i = .crcbyte b := by
  obtain ⟨-, v, rfl⟩ | ⟨-, a, c, rfl⟩ | ⟨hi, -⟩ := exec_cases h
  · simp at hchange
  · simp at hchange
  · exact hi

/-- A step keeps the three registers, unless it takes a reset or runs a decoded command: waiting (R94)
and the exception of an illegal word (R73) write none. -/
theorem step_keeps_registers_or {s t : State} (h : step s = .next t) :
    (t.acc = s.acc ∧ t.carry = s.carry ∧ t.crc = s.crc) ∨
      ∃ input rest, s.pending = input :: rest ∧
        (input = .reset ∨
          ∃ w i, input = .command w ∧ decode w = .ok i ∧ exec i (withPending rest s) = .next t) := by
  obtain ⟨-, rfl⟩ | ⟨input, rest, hpending, hserved⟩ := step_cases h
  · exact .inl ⟨rfl, rfl, rfl⟩
  · obtain ⟨hreset, -⟩ | ⟨w, hw, -, ⟨i, hdecode, hexec⟩ | ⟨-, rfl⟩⟩ := hserved
    · exact .inr ⟨input, rest, hpending, .inl hreset⟩
    · exact .inr ⟨input, rest, hpending, .inr ⟨w, i, hw, hdecode, hexec⟩⟩
    · exact .inl ⟨rfl, rfl, rfl⟩

/-- Settles O27: a step that changes a register takes a reset or runs a command, and that command is
one of the register's writers. -/
theorem registersChangeOnlyAtTheirWriters : Obligations.RegistersChangeOnlyAtTheirWriters := by
  intro s t hstep
  obtain ⟨hacc, hcarry, hcrc⟩ | ⟨input, rest, hpending, hinput⟩ := step_keeps_registers_or hstep
  · exact ⟨fun hchange => (hchange.elim (· hacc) (· hcarry)).elim, fun hchange => (hchange hcrc).elim⟩
  · obtain hreset | ⟨w, i, hw, hdecode, hexec⟩ := hinput
    · exact ⟨fun _ => ⟨input, rest, hpending, .inl hreset⟩,
        fun _ => ⟨input, rest, hpending, .inl hreset⟩⟩
    · refine ⟨fun hchange => ⟨input, rest, hpending, .inr ⟨w, hw, ?_⟩⟩,
        fun hchange => ⟨input, rest, hpending, .inr ⟨w, hw, ?_⟩⟩⟩
      · obtain rfl | ⟨b, rfl⟩ := exec_checksum_writer hexec hchange
        · exact .inl hdecode
        · exact .inr ⟨b, hdecode⟩
      · obtain rfl | ⟨b, rfl⟩ := exec_crc_writer hexec hchange
        · exact .inl hdecode
        · exact .inr ⟨b, hdecode⟩

/-- Settles O11: the fields of `State.reset` are the parameters of R6, whose values R26 gives. -/
theorem resetRegisterValues : Obligations.ResetRegisterValues :=
  ⟨State.reset_acc, State.reset_carry, State.reset_crc⟩

/-- The checksum unit's commands, as R25 lists them. -/
theorem isSignature_eq_false_iff (i : Instr) :
    i.isSignature = false ↔ i ∈ [.ckclr, .cksum, .ckacc, .ckcy] ∨ ∃ b, i = .ckadc b := by
  cases i <;> simp [Instr.isSignature]

/-- The signature unit's commands, as R25 lists them. -/
theorem isSignature_eq_true_iff (i : Instr) :
    i.isSignature = true ↔ i ∈ [.crcinit, .crclo, .crchi] ∨ ∃ b, i = .crcbyte b := by
  cases i <;> simp [Instr.isSignature]

/-- A checksum unit command computes its answer and its writes from `ACC` and `CARRY` alone (R25). -/
theorem exec_checksum_form {i : Instr} (h : i.isSignature = false) :
    ∃ (r : Byte → Bit → Response) (a : Byte → Bit → Byte) (c : Byte → Bit → Bit), ∀ s : State,
      exec i s = .next (respond (r s.acc s.carry)
        (writeChecksum (a s.acc s.carry) (c s.acc s.carry) s)) := by
  cases i with
  | ckclr => exact ⟨fun _ _ => .none, fun _ _ => ckAccInit, fun _ _ => ckCarryInit, fun _ => rfl⟩
  | ckadc b =>
    exact ⟨fun _ _ => .none, fun acc carry => accOut (checksumSum acc carry b),
      fun acc carry => carryOut (checksumSum acc carry b), fun _ => rfl⟩
  | cksum =>
    exact ⟨fun acc _ => .data (patchByte acc), fun acc _ => acc, fun _ carry => carry, fun _ => rfl⟩
  | ckacc => exact ⟨fun acc _ => .data acc, fun acc _ => acc, fun _ carry => carry, fun _ => rfl⟩
  | ckcy =>
    exact ⟨fun _ carry => .data (carryByte carry), fun acc _ => acc, fun _ carry => carry,
      fun _ => rfl⟩
  | crcinit | crcbyte | crclo | crchi => cases h

/-- A signature unit command computes its answer and its write from `CRC` alone (R25). -/
theorem exec_signature_form {i : Instr} (h : i.isSignature = true) :
    ∃ (r : Word → Response) (v : Word → Word), ∀ s : State,
      exec i s = .next (respond (r s.crc) (writeCrc (v s.crc) s)) := by
  cases i with
  | crcinit => exact ⟨fun _ => .none, fun _ => crcInit, fun _ => rfl⟩
  | crcbyte b => exact ⟨fun _ => .none, fun crc => crcStep crc b, fun _ => rfl⟩
  | crclo => exact ⟨fun crc => .data (crcLowByte crc), fun crc => crc, fun _ => rfl⟩
  | crchi => exact ⟨fun crc => .data (crcHighByte crc), fun crc => crc, fun _ => rfl⟩
  | ckclr | ckadc | cksum | ckacc | ckcy => cases h

/-- Settles O28: a command of one unit is a function of that unit's registers, so it commutes with any
change of the other unit's. -/
theorem unitsAreDisjoint : Obligations.UnitsAreDisjoint := by
  refine ⟨fun i s hi => ?_, fun i s hi => ?_⟩
  · obtain ⟨r, a, c, hform⟩ := exec_checksum_form ((isSignature_eq_false_iff i).mpr hi)
    exact ⟨_, hform s, rfl, fun crc => hform { s with crc := crc }⟩
  · obtain ⟨r, v, hform⟩ := exec_signature_form ((isSignature_eq_true_iff i).mpr hi)
    exact ⟨_, hform s, rfl, rfl,
      fun acc carry => hform { s with acc := acc, carry := carry }⟩

end Sys2Proof.Machine
end

section
/-! Byte order and short images (spec/20_memory.md R30, R33): the bytes of a stored command word, and
where the host's sequence stops. -/

namespace Sys2Proof.Machine

/-- The data field of a command's word is its operand, or zero where it has none (R41). -/
theorem dataField_encode (i : Instr) : dataField (encode i) = dataOf i := by
  have hfields : Laws.EncodingFields.Statement i := by
    cases i with
    | ckclr => exact Laws.EncodingFields.ckclr
    | ckadc b => exact Laws.EncodingFields.ckadc b
    | cksum => exact Laws.EncodingFields.cksum
    | ckacc => exact Laws.EncodingFields.ckacc
    | ckcy => exact Laws.EncodingFields.ckcy
    | crcinit => exact Laws.EncodingFields.crcinit
    | crcbyte b => exact Laws.EncodingFields.crcbyte b
    | crclo => exact Laws.EncodingFields.crclo
    | crchi => exact Laws.EncodingFields.crchi
  obtain ⟨-, -, hdata⟩ := hfields
  exact hdata

/-- The low byte of a word, bits 7:0, is its value modulo 256. -/
theorem extractLow_eq_ofNat (w : Word) :
    w.extractLsb' 0 8 = BitVec.ofNat 8 (w.toNat % 256) := by
  apply BitVec.eq_of_toNat_eq
  simp

/-- The high byte of a word, bits 15:8, is its value divided by 256. -/
theorem extractHigh_eq_ofNat (w : Word) :
    w.extractLsb' 8 8 = BitVec.ofNat 8 (w.toNat / 256) := by
  apply BitVec.eq_of_toNat_eq
  simp [Nat.shiftRight_eq_div_pow]

/-- The two bytes of a word, put together again, are the word (R33). -/
theorem storedWord_extract (w : Word) :
    storedWord (w.extractLsb' 0 8) (w.extractLsb' 8 8) = w := by
  have h := BitVec.extractLsb'_append_extractLsb'_eq_extractLsb' (x := w) (start₁ := 0) (len₁ := 8)
    (start₂ := 8) (len₂ := 8) rfl
  exact h.trans BitVec.extractLsb'_eq_self

/-- Reading takes the two bytes of the first word off the listing (R33). -/
theorem wordsOfBytes_storedBytes_append (w : Word) (bytes : List Byte) :
    wordsOfBytes (storedBytes w ++ bytes) = (wordsOfBytes bytes).map (w :: ·) := by
  simp only [storedBytes, List.cons_append, List.nil_append, wordsOfBytes, storedWord_extract]

/-- A stored listing reads back, word by word (R33). -/
theorem wordsOfBytes_flatMap_storedBytes (ws : List Word) :
    wordsOfBytes (ws.flatMap storedBytes) = some ws := by
  induction ws with
  | nil => rfl
  | cons w ws ih => rw [List.flatMap_cons, wordsOfBytes_storedBytes_append, ih, Option.map_some]

/-- Settles O5: the first stored byte is the data field, which is the low byte of the word. -/
theorem storedWordsAreLowByteFirst : Obligations.StoredWordsAreLowByteFirst := by
  refine ⟨fun w => ?_, fun i => ?_, wordsOfBytes_flatMap_storedBytes⟩
  · rw [storedBytes, extractLow_eq_ofNat, extractHigh_eq_ofNat]
  · exact congrArg some (dataField_encode i)

/-- Asking the block fails only for the block's refusal or a missing answer: the size of the image is
no matter of a single exchange. -/
theorem ask_error_cases {is : List Instr} {s : State} {e : HostStop} (h : ask is s = .error e) :
    e = .noData ∨ ∃ r, e = .blockRefused r := by
  unfold ask at h
  split at h
  · split at h
    · cases h
    · cases h; exact .inl rfl
  · exact nomatch ‹Fault›
  · cases h; exact .inr ⟨_, rfl⟩

/-- An exchange never stops for a short image (R30). -/
theorem ask_ne_imageTooShort (is : List Instr) (s : State) : ask is s ≠ .error .imageTooShort := by
  intro h
  obtain h | ⟨r, h⟩ := ask_error_cases h <;> cases h

/-- With the three header bytes there the sequence can stop only in one of its three exchanges (R88). -/
theorem hostPatch_ne_imageTooShort (oldLo oldHi oldCk : Byte) (payload : List Byte) (s : State) :
    hostPatch (oldLo :: oldHi :: oldCk :: payload) s ≠ .error .imageTooShort := by
  intro h
  simp only [hostPatch] at h
  split at h
  · cases h; exact ask_ne_imageTooShort _ _ ‹_›
  · split at h
    · cases h; exact ask_ne_imageTooShort _ _ ‹_›
    · split at h
      · cases h; exact ask_ne_imageTooShort _ _ ‹_›
      · cases h

/-- Settles O48: the sequence refuses an image that lacks a header byte before it asks anything, and no
other. -/
theorem hostRefusesShortImages : Obligations.HostRefusesShortImages := by
  intro img s _ _
  match img with
  | [] | [_] | [_, _] => exact iff_of_true rfl (by simp)
  | oldLo :: oldHi :: oldCk :: payload =>
    exact iff_of_false (hostPatch_ne_imageTooShort oldLo oldHi oldCk payload s) (by simp)

end Sys2Proof.Machine
end

section
/-! Reads and repeated commands (spec/20_memory.md R38). -/

namespace Sys2Proof.Machine

/-- A read command answers a function of the registers and does nothing else (R38). -/
theorem exec_read_form {i : Instr} (h : i.isRead = true) :
    ∃ answer : Byte → Bit → Word → Byte, ∀ s : State,
      exec i s = .next (respond (.data (answer s.acc s.carry s.crc)) s) := by
  cases i with
  | cksum => exact ⟨fun acc _ _ => patchByte acc, fun _ => rfl⟩
  | ckacc => exact ⟨fun acc _ _ => acc, fun _ => rfl⟩
  | ckcy => exact ⟨fun _ carry _ => carryByte carry, fun _ => rfl⟩
  | crclo => exact ⟨fun _ _ crc => crcLowByte crc, fun _ => rfl⟩
  | crchi => exact ⟨fun _ _ crc => crcHighByte crc, fun _ => rfl⟩
  | ckclr | ckadc | crcinit | crcbyte => cases h

/-- The read commands, as R38 lists them. -/
theorem isRead_eq_true_iff (i : Instr) :
    i.isRead = true ↔ i ∈ [.cksum, .ckacc, .ckcy, .crclo, .crchi] := by
  cases i <;> simp [Instr.isRead]

/-- A read repeated answers the same value again, since the first one left the registers (R38). -/
theorem exec_read_twice {i : Instr} (h : i.isRead = true) (s : State) :
    ∃ v, exec i s = .next (respond (.data v) s) ∧
      exec i (respond (.data v) s) = .next (respond (.data v) (respond (.data v) s)) := by
  obtain ⟨answer, hform⟩ := exec_read_form h
  exact ⟨_, hform s, hform _⟩

/-- `CKCLR` and `CRCINIT` write constants, so a second one leaves the registers (R38). -/
theorem exec_init_twice {i : Instr} (h : i ∈ [Instr.ckclr, .crcinit]) (s : State) :
    ∃ t u, exec i s = .next t ∧ exec i t = .next u ∧
      u.acc = t.acc ∧ u.carry = t.carry ∧ u.crc = t.crc := by
  simp only [List.mem_cons, List.not_mem_nil, or_false] at h
  obtain rfl | rfl := h
  · exact ⟨_, _, rfl, rfl, rfl, rfl, rfl⟩
  · exact ⟨_, _, rfl, rfl, rfl, rfl, rfl⟩

/-- R64 twice with the byte 0x00, from the initial value: the second step changes the register again. -/
theorem crcStep_zero_twice :
    crcStep crcInit 0x00#8 = 0xE1F0#16 ∧ crcStep 0xE1F0#16 0x00#8 = 0x1D0F#16 := by
  constructor <;> decide

/-- Settles O29: from the state after reset `CKADC 0x01` gives 0x01 and then 0x02, and `CRCBYTE 0x00`
gives 0xE1F0 and then 0x1D0F, so neither is idempotent. -/
theorem readsHaveNoSideEffects : Obligations.ReadsHaveNoSideEffects := by
  refine ⟨fun i hi s => ?_, fun i hi s => exec_init_twice hi s, ?_, ?_⟩
  · obtain ⟨v, hfirst, hsecond⟩ := exec_read_twice ((isRead_eq_true_iff i).mpr hi) s
    exact ⟨_, _, v, hfirst, hsecond, rfl, rfl, rfl, rfl, by simp⟩
  · exact ⟨0x01#8, State.reset, _, _, rfl, rfl, by decide⟩
  · obtain ⟨hfirst, hsecond⟩ := crcStep_zero_twice
    refine ⟨0x00#8, State.reset, _, _, rfl, rfl, ?_⟩
    simp only [respond_crc, writeCrc_crc, State.reset_crc, hfirst, hsecond]
    decide

end Sys2Proof.Machine
end

section
/-! Ordering (spec/20_memory.md R39): a run serves its inputs one by one, and what one input does is
independent of what waits behind it. -/

namespace Sys2Proof.Machine

/-- Every command completes (R71). -/
theorem exec_completes (i : Instr) (s : State) : ∃ t, exec i s = .next t := by
  cases hunit : i.isSignature with
  | false =>
    obtain ⟨r, a, c, hform⟩ := exec_checksum_form hunit
    exact ⟨_, hform s⟩
  | true =>
    obtain ⟨r, v, hform⟩ := exec_signature_form hunit
    exact ⟨_, hform s⟩

/-- A command leaves the host's channel and the record of the first reset. -/
theorem exec_keeps_channel {i : Instr} {s t : State} (h : exec i s = .next t) :
    t.pending = s.pending ∧ t.resetSeen = s.resetSeen := by
  obtain ⟨-, v, rfl⟩ | ⟨-, a, c, rfl⟩ | ⟨-, v, rfl⟩ := exec_cases h
  · exact ⟨rfl, rfl⟩
  · exact ⟨rfl, rfl⟩
  · exact ⟨rfl, rfl⟩

/-- A command does not read the host's channel (R39). -/
theorem exec_withPending {i : Instr} {s t : State} (inputs : List HostInput)
    (h : exec i s = .next t) : exec i (withPending inputs s) = .next (withPending inputs t) := by
  cases hunit : i.isSignature with
  | false =>
    obtain ⟨r, a, c, hform⟩ := exec_checksum_form hunit
    cases (hform s).symm.trans h
    exact hform (withPending inputs s)
  | true =>
    obtain ⟨r, v, hform⟩ := exec_signature_form hunit
    cases (hform s).symm.trans h
    exact hform (withPending inputs s)

/-- An illegal word takes the exception (R70, R73). -/
theorem runCommand_of_decode_error {cmd : Word} {e : IllegalReason} (s : State)
    (h : decode cmd = .error e) : runCommand cmd s = .next (takeIllegalCommand cmd s) := by
  simp only [runCommand, h]

/-- A ready block serves every input: a reset, a legal word or an illegal one (R73, R81). -/
theorem serveInput_completes (input : HostInput) {s : State} (h : s.ready) :
    ∃ t, serveInput input s = .next t := by
  cases input with
  | reset => exact ⟨_, rfl⟩
  | command cmd =>
    rw [serveInput_command_of_ready cmd h]
    cases hdecode : decode cmd with
    | ok i => exact runCommand_of_decode_ok s hdecode ▸ exec_completes i s
    | error e => exact ⟨_, runCommand_of_decode_error s hdecode⟩

/-- Serving an input leaves what waits behind it, and a ready block. -/
theorem serveInput_keeps_channel {input : HostInput} {s t : State}
    (h : serveInput input s = .next t) : t.pending = s.pending ∧ t.ready := by
  obtain ⟨-, rfl⟩ | ⟨cmd, -, hready, hcmd⟩ := serveInput_cases h
  · exact ⟨rfl, rfl⟩
  · obtain ⟨i, -, hexec⟩ | ⟨-, rfl⟩ := runCommand_cases hcmd
    · obtain ⟨hpending, hseen⟩ := exec_keeps_channel hexec
      exact ⟨hpending, hseen.trans hready⟩
    · exact ⟨rfl, hready⟩

/-- No input sees what waits behind it (R39). -/
theorem serveInput_withPending {input : HostInput} {s t : State} (inputs : List HostInput)
    (h : serveInput input s = .next t) :
    serveInput input (withPending inputs s) = .next (withPending inputs t) := by
  obtain ⟨rfl, rfl⟩ | ⟨cmd, rfl, hready, hcmd⟩ := serveInput_cases h
  · rfl
  · rw [serveInput_command_of_ready (s := withPending inputs s) cmd hready]
    obtain ⟨i, hdecode, hexec⟩ | ⟨⟨e, hdecode⟩, rfl⟩ := runCommand_cases hcmd
    · rw [runCommand_of_decode_ok _ hdecode, exec_withPending inputs hexec]
    · exact runCommand_of_decode_error _ hdecode

/-- From an idle block a run serves just the inputs it is given (R94). -/
theorem run_of_pending_nil (inputs : List HostInput) {s : State} (h : s.pending = []) :
    run inputs s = runSteps inputs.length (withPending inputs s) := by
  simp only [run, issue, h, List.nil_append, withPending_pending]

/-- A run without inputs ends where it begins (R94). -/
theorem run_nil {s : State} (h : s.pending = []) : run [] s = .next s := by
  rw [run_of_pending_nil [] h, List.length_nil, runSteps_zero, ← h]
  rfl

/-- A run serves its first input and goes on with the others from there (R39). -/
theorem run_cons {input : HostInput} {inputs : List HostInput} {s t : State}
    (hidle : s.pending = []) (hserve : serveInput input s = .next t) :
    run (input :: inputs) s = run inputs t := by
  have hstep : step (withPending (input :: inputs) s) = .next (withPending inputs t) :=
    (step_of_pending_cons rfl).trans (serveInput_withPending (s := s) inputs hserve)
  obtain ⟨hpending, -⟩ := serveInput_keeps_channel hserve
  calc run (input :: inputs) s
      = runSteps (inputs.length + 1) (withPending (input :: inputs) s) := run_of_pending_nil _ hidle
    _ = runSteps inputs.length (withPending inputs t) := runSteps_succ _ hstep
    _ = run inputs t := (run_of_pending_nil inputs (hpending.trans hidle)).symm

/-- A run on a ready, idle block completes, leaves the block ready and idle, and any further inputs
take effect from there (R39). -/
theorem run_append (a : List HostInput) {s : State} (hready : s.ready) (hidle : s.pending = []) :
    ∃ t, run a s = .next t ∧ t.ready ∧ t.pending = [] ∧ ∀ b, run (a ++ b) s = run b t := by
  induction a generalizing s with
  | nil => exact ⟨s, run_nil hidle, hready, hidle, fun _ => rfl⟩
  | cons input a ih =>
    obtain ⟨s1, hserve⟩ := serveInput_completes input hready
    obtain ⟨hpending1, hready1⟩ := serveInput_keeps_channel hserve
    obtain ⟨t, hrun, htready, htidle, happend⟩ := ih hready1 (hpending1.trans hidle)
    exact ⟨t, (run_cons hidle hserve).trans hrun, htready, htidle,
      fun b => (run_cons hidle hserve).trans (happend b)⟩

/-- Settles O31, by induction on the inputs issued first. -/
theorem inputsTakeEffectInIssueOrder : Obligations.InputsTakeEffectInIssueOrder := by
  intro a b s hready hidle
  obtain ⟨t, hrun, -, htidle, happend⟩ := run_append a hready hidle
  exact ⟨t, hrun, htidle, happend b⟩

end Sys2Proof.Machine
end

section
/-! Command words (spec/30_encoding.md R41 to R46): the three fields of a word, decode and encode as
inverses of each other, the match and mask table, and the count of legal words. -/

namespace Sys2Proof.Machine

/-- The word made of three given fields (R41). -/
def wordOfFields (rsv op : BitVec 4) (d : Byte) : Word := (rsv ++ op) ++ d

/-- A command's word has `RSV = 0`, the command's opcode and its data (R41, R43). -/
theorem encode_eq_wordOfFields (i : Instr) : encode i = wordOfFields 0#4 (opcodeOf i) (dataOf i) := rfl

@[simp] theorem rsvField_wordOfFields (rsv op : BitVec 4) (d : Byte) :
    rsvField (wordOfFields rsv op d) = rsv := by
  rw [rsvField, wordOfFields, BitVec.extractLsb'_append_eq_of_le (by decide)]
  exact BitVec.extractLsb'_append_eq_left

@[simp] theorem opField_wordOfFields (rsv op : BitVec 4) (d : Byte) :
    opField (wordOfFields rsv op d) = op := by
  rw [opField, wordOfFields, BitVec.extractLsb'_append_eq_of_le (by decide)]
  exact BitVec.extractLsb'_append_eq_right

@[simp] theorem dataField_wordOfFields (rsv op : BitVec 4) (d : Byte) :
    dataField (wordOfFields rsv op d) = d :=
  BitVec.extractLsb'_append_eq_right

/-- A word has no bit outside its three fields (R41). -/
theorem wordOfFields_fields (w : Word) : wordOfFields (rsvField w) (opField w) (dataField w) = w := by
  have hhigh : rsvField w ++ opField w = w.extractLsb' 8 8 :=
    BitVec.extractLsb'_append_extractLsb'_eq_extractLsb' rfl
  rw [wordOfFields, hhigh]
  exact storedWord_extract w

/-- The opcode map R43 gives each command for its own opcode and data. -/
theorem decodeOpcode_opcodeOf (i : Instr) : decodeOpcode (opcodeOf i) (dataOf i) = .ok i := by
  cases i with
  | ckclr | ckadc | cksum | ckacc | ckcy | crcinit | crcbyte | crclo | crchi => rfl

/-- The opcode map R43 accepts no other opcode or data for a command. -/
theorem eq_fields_of_decodeOpcode {op : BitVec 4} {d : Byte} {i : Instr}
    (h : decodeOpcode op d = .ok i) : op = opcodeOf i ∧ d = dataOf i := by
  unfold decodeOpcode at h
  split at h
  -- `CKADC` and `CRCBYTE` keep any data, a reserved opcode is refused, and the others ask for zero.
  case h_2 hop => cases h; exact ⟨BitVec.eq_of_toNat_eq hop, rfl⟩
  case h_7 hop => cases h; exact ⟨BitVec.eq_of_toNat_eq hop, rfl⟩
  case h_10 => cases h
  all_goals
    obtain ⟨rfl, rfl⟩ := withoutOperand_eq_ok.mp h
    exact ⟨BitVec.eq_of_toNat_eq ‹_›, rfl⟩

/-- What the decoder accepts: `RSV = 0` and the fields of the command (R46). -/
theorem decode_eq_ok_iff_fields {w : Word} {i : Instr} :
    decode w = .ok i ↔ rsvField w = 0#4 ∧ opField w = opcodeOf i ∧ dataField w = dataOf i := by
  constructor
  · intro h
    unfold decode at h
    split at h
    · exact ⟨‹_›, eq_fields_of_decodeOpcode h⟩
    · cases h
  · rintro ⟨hrsv, hop, hdata⟩
    rw [decode, if_pos hrsv, hop, hdata, decodeOpcode_opcodeOf]

/-- The decoder accepts exactly the encoder's words, each as its own command (R41, R46). -/
theorem decode_eq_ok_iff {w : Word} {i : Instr} : decode w = .ok i ↔ w = encode i := by
  rw [decode_eq_ok_iff_fields, encode_eq_wordOfFields]
  constructor
  · rintro ⟨hrsv, hop, hdata⟩
    rw [← hrsv, ← hop, ← hdata, wordOfFields_fields]
  · rintro rfl
    exact ⟨rsvField_wordOfFields .., opField_wordOfFields .., dataField_wordOfFields ..⟩

/-- A command is read back from its own word. -/
@[simp] theorem decode_encode (i : Instr) : decode (encode i) = .ok i := decode_eq_ok_iff.mpr rfl

/-- Settles O4: the decoder's words are the encoder's, so each undoes the other. -/
theorem decodeAndEncodeAgree : Obligations.DecodeAndEncodeAgree :=
  ⟨decode_encode, fun _ _ h => (decode_eq_ok_iff.mp h).symm⟩

/-- Settles O1: each pattern of R45, written out, is the word of its command. -/
theorem patternWordsDecode : Obligations.PatternWordsDecode :=
  ⟨decode_encode .ckclr, decode_encode (.ckadc 0xFF#8), decode_encode .cksum, decode_encode .ckacc,
    decode_encode .ckcy, decode_encode .crcinit, decode_encode (.crcbyte 0xFD#8),
    decode_encode .crclo, decode_encode .crchi⟩

/-- A mask of all bits fixes the whole word (R45). -/
theorem and_fullMask_eq_iff (w m : Word) : w &&& 0xFFFF#16 = m ↔ w = m := by
  rw [show (0xFFFF#16 : Word) = BitVec.allOnes 16 from rfl, BitVec.and_allOnes]

/-- The mask 0xFF00 leaves bits 15:8 and fixes all but the data field (R45). -/
theorem and_operandMask (w : Word) :
    w &&& 0xFF00#16 = wordOfFields (rsvField w) (opField w) 0x00#8 := by
  calc w &&& 0xFF00#16
      = ((rsvField w ++ opField w) ++ dataField w) &&& (BitVec.allOnes 8 ++ 0x00#8) :=
        congrArg (· &&& 0xFF00#16) (wordOfFields_fields w).symm
    _ = ((rsvField w ++ opField w) &&& BitVec.allOnes 8) ++ (dataField w &&& 0x00#8) :=
        BitVec.and_append
    _ = (rsvField w ++ opField w) ++ 0x00#8 := by rw [BitVec.and_allOnes, BitVec.and_zero]

/-- A word matches under 0xFF00 exactly when it has the match bits with its own data field (R45). -/
theorem and_operandMask_eq_iff (w : Word) (op : BitVec 4) :
    w &&& 0xFF00#16 = wordOfFields 0#4 op 0x00#8 ↔ w = wordOfFields 0#4 op (dataField w) := by
  rw [and_operandMask]
  constructor
  · intro h
    have hrsv : rsvField w = 0#4 := by simpa using congrArg rsvField h
    have hop : opField w = op := by simpa using congrArg opField h
    rw [← hrsv, ← hop, wordOfFields_fields]
  · intro h
    have hrsv : rsvField w = 0#4 := by rw [h, rsvField_wordOfFields]
    have hop : opField w = op := by rw [h, opField_wordOfFields]
    rw [hrsv, hop]

/-- A row of R45 accepts a word exactly when it is the word of the row's command, with the word's data
field as the operand. -/
theorem accepts_iff_eq_encode {r : OpcodeRow} (hr : r ∈ opcodeRows) (w : Word) :
    r.accepts w = true ↔ w = encode (r.build (dataField w)) := by
  rw [OpcodeRow.accepts, decide_eq_true_iff]
  simp only [opcodeRows, List.mem_cons, List.not_mem_nil, or_false] at hr
  obtain rfl | rfl | rfl | rfl | rfl | rfl | rfl | rfl | rfl := hr
  · exact and_fullMask_eq_iff w (encode .ckclr)
  · exact and_operandMask_eq_iff w 0x2#4
  · exact and_fullMask_eq_iff w (encode .cksum)
  · exact and_fullMask_eq_iff w (encode .ckacc)
  · exact and_fullMask_eq_iff w (encode .ckcy)
  · exact and_fullMask_eq_iff w (encode .crcinit)
  · exact and_operandMask_eq_iff w 0xA#4
  · exact and_fullMask_eq_iff w (encode .crclo)
  · exact and_fullMask_eq_iff w (encode .crchi)

/-- Every command has a row in R45. -/
theorem exists_row_build (i : Instr) : ∃ r ∈ opcodeRows, i = r.build (dataOf i) := by
  cases i with
  | ckclr | ckadc | cksum | ckacc | ckcy | crcinit | crcbyte | crclo | crchi => simp [opcodeRows, dataOf]

/-- The decoder answers what the table R45 gives. -/
theorem decode_eq_ok_iff_row {w : Word} {i : Instr} :
    decode w = .ok i ↔ ∃ r ∈ opcodeRows, r.accepts w = true ∧ i = r.build (dataField w) := by
  rw [decode_eq_ok_iff]
  constructor
  · intro h
    obtain ⟨r, hr, hbuild⟩ := exists_row_build i
    have hdata : dataField w = dataOf i := by rw [h, dataField_encode]
    rw [← hdata] at hbuild
    exact ⟨r, hr, (accepts_iff_eq_encode hr w).mpr (h.trans (congrArg encode hbuild)), hbuild⟩
  · rintro ⟨r, hr, haccepts, rfl⟩
    exact (accepts_iff_eq_encode hr w).mp haccepts

/-- The rows of R45 have different opcodes. -/
theorem opcodeRows_pairwise_opcode :
    opcodeRows.Pairwise fun r q => ∀ d : Byte, opcodeOf (r.build d) ≠ opcodeOf (q.build d) := by
  simp [opcodeRows, opcodeOf]

/-- The opcode of a word that a row accepts is the row's (R45). -/
theorem opField_of_accepts {r : OpcodeRow} (hr : r ∈ opcodeRows) {w : Word}
    (h : r.accepts w = true) : opField w = opcodeOf (r.build (dataField w)) := by
  obtain ⟨-, hop, -⟩ :=
    decode_eq_ok_iff_fields.mp (decode_eq_ok_iff.mpr ((accepts_iff_eq_encode hr w).mp h))
  exact hop

/-- No word matches two rows, because the `OP` values differ (R45). -/
theorem opcodeRows_disjoint :
    opcodeRows.Pairwise fun r q => ∀ w : Word, ¬ (r.accepts w = true ∧ q.accepts w = true) := by
  refine opcodeRows_pairwise_opcode.imp_of_mem fun hr hq hne w => ?_
  rintro ⟨hracc, hqacc⟩
  exact hne _ ((opField_of_accepts hr hracc).symm.trans (opField_of_accepts hq hqacc))

/-- Settles O2: the nine alternatives are the rows of `opcodeRows`, one by one. -/
theorem decoderIsTheMatchMaskTable : Obligations.DecoderIsTheMatchMaskTable := by
  refine ⟨fun w i => ?_, opcodeRows_disjoint⟩
  have hdata : dataField w = BitVec.ofNat 8 (w.toNat % 256) := extractLow_eq_ofNat w
  rw [decode_eq_ok_iff_row, hdata]
  simp only [opcodeRows, OpcodeRow.accepts, decide_eq_true_iff, List.mem_cons, List.not_mem_nil,
    or_false, exists_eq_or_imp, exists_eq_left]

/-- All bytes, in order. -/
def allBytes : List Byte := (List.finRange 256).map BitVec.ofFin

theorem mem_allBytes (b : Byte) : b ∈ allBytes :=
  List.mem_map.mpr ⟨b.toFin, List.mem_finRange _, rfl⟩

theorem allBytes_nodup : allBytes.Nodup :=
  (List.nodup_finRange 256).map fun _ _ h => congrArg BitVec.toFin h

@[simp] theorem allBytes_length : allBytes.length = 256 := by
  rw [allBytes, List.length_map, List.length_finRange]

/-- The seven commands without an operand (R43). -/
def plainCommands : List Instr := [.ckclr, .cksum, .ckacc, .ckcy, .crcinit, .crclo, .crchi]

/-- Every command with every operand: 7 + 2 * 256 (R46). -/
def allCommands : List Instr := plainCommands ++ (allBytes.map .ckadc ++ allBytes.map .crcbyte)

theorem mem_allCommands (i : Instr) : i ∈ allCommands := by
  rw [allCommands, List.mem_append, List.mem_append]
  cases i with
  | ckadc b => exact .inr (.inl (List.mem_map_of_mem (mem_allBytes b)))
  | crcbyte b => exact .inr (.inr (List.mem_map_of_mem (mem_allBytes b)))
  | ckclr | cksum | ckacc | ckcy | crcinit | crclo | crchi => exact .inl (by decide)

theorem allCommands_length : allCommands.length = 519 := by
  simp [allCommands, plainCommands]

theorem allCommands_nodup : allCommands.Nodup := by
  have hckadc : (allBytes.map Instr.ckadc).Nodup := allBytes_nodup.map fun _ _ => Instr.ckadc.inj
  have hcrcbyte : (allBytes.map Instr.crcbyte).Nodup :=
    allBytes_nodup.map fun _ _ => Instr.crcbyte.inj
  refine List.nodup_append.mpr ⟨by decide, List.nodup_append.mpr ⟨hckadc, hcrcbyte, ?_⟩, ?_⟩
  · simp
  · rintro i hplain _ hoperand rfl
    simp only [List.mem_append, List.mem_map] at hoperand
    obtain ⟨b, -, rfl⟩ | ⟨b, -, rfl⟩ := hoperand
    · simp [plainCommands] at hplain
    · simp [plainCommands] at hplain

/-- Different commands have different words, since each word reads back. -/
theorem encode_injective : Function.Injective encode := fun i j h =>
  Except.ok.inj ((decode_encode i).symm.trans (h ▸ decode_encode j))

/-- Settles O3: the words of all commands are different, and they are the words the decoder accepts. -/
theorem legalWordsAre519 : Obligations.LegalWordsAre519 := by
  refine ⟨allCommands.map encode, allCommands_nodup.map encode_injective, ?_, fun w => ?_⟩
  · rw [List.length_map, allCommands_length]
  · calc w ∈ allCommands.map encode
        ↔ ∃ i, i ∈ allCommands ∧ encode i = w := List.mem_map
      _ ↔ ∃ i, decode w = .ok i := exists_congr fun i => by
          rw [decode_eq_ok_iff, eq_comm, and_iff_right (mem_allCommands i)]

end Sys2Proof.Machine
end

section
/-! Responses (spec/30_encoding.md R47): what one served input adds to the record. -/

namespace Sys2Proof.Machine

/-- The kind of response R47 lists for a command: `DATA` for a read, `NONE` for the others. -/
def Response.answers (i : Instr) (r : Response) : Prop :=
  if i.isRead then ∃ v, r = .data v else r = .none

/-- A command adds one response, of its kind (R47). -/
theorem exec_responds {i : Instr} {s t : State} (h : exec i s = .next t) :
    ∃ r, t.responses = s.responses ++ [r] ∧ r.answers i := by
  obtain ⟨hread, v, rfl⟩ | ⟨rfl | ⟨b, rfl⟩, a, c, rfl⟩ | ⟨rfl | ⟨b, rfl⟩, v, rfl⟩ := exec_cases h
  · exact ⟨_, respond_responses .., by rw [Response.answers, if_pos hread]; exact ⟨v, rfl⟩⟩
  · exact ⟨_, respond_responses .., rfl⟩
  · exact ⟨_, respond_responses .., rfl⟩
  · exact ⟨_, respond_responses .., rfl⟩
  · exact ⟨_, respond_responses .., rfl⟩

/-- Settles O9: a reset gives no response, a legal word the one of its command, an illegal one `ERR`. -/
theorem eachCommandGivesItsOneResponse : Obligations.EachCommandGivesItsOneResponse := by
  intro s input rest hready hpending
  rw [step_of_pending_cons hpending]
  cases input with
  | reset => exact ⟨_, rfl, rfl⟩
  | command w =>
    rw [serveInput_command_of_ready (s := withPending rest s) w hready]
    dsimp only
    cases hdecode : decode w with
    | error e =>
      rw [runCommand_of_decode_error _ hdecode]
      exact ⟨_, rfl, _, takeIllegalCommand_responses .., rfl⟩
    | ok i =>
      rw [runCommand_of_decode_ok _ hdecode]
      obtain ⟨t, hexec⟩ := exec_completes i (withPending rest s)
      obtain ⟨r, hresponses, hkind⟩ := exec_responds hexec
      refine ⟨t, hexec, r, hresponses, ?_⟩
      cases i with
      | ckclr | ckadc | cksum | ckacc | ckcy | crcinit | crcbyte | crclo | crchi => exact hkind

end Sys2Proof.Machine
end

section
/-! Host text (spec/30_encoding.md R50 to R54): the pseudo-commands, the assembler's check of operands,
and the listing. -/

namespace Sys2Proof.Machine

/-- Settles O42: the entry of `CKFOLD` for position `k` comes from the reversed sequence, that of
`CRCFOLD` from the sequence itself. -/
theorem pseudoCommandExpansions : Obligations.PseudoCommandExpansions := by
  refine ⟨fun s => ⟨?_, rfl, fun k hk => ?_⟩, fun s => ⟨?_, rfl, fun k _ => ?_⟩,
    rfl, fun _ => rfl, fun _ => rfl, rfl⟩
  · rw [ckfold, List.length_cons, List.length_map, List.length_reverse]
  · rw [ckfold, List.getElem?_cons_succ, List.getElem?_map, List.getElem?_reverse hk]
  · rw [crcfold, List.length_cons, List.length_map]
  · rw [crcfold, List.getElem?_cons_succ, List.getElem?_map]

/-- Letter case does not matter: only the capitals are looked up (R50). -/
theorem readMnemonic_congr {word other : List Char}
    (h : word.map Char.toUpper = other.map Char.toUpper) : readMnemonic word = readMnemonic other :=
  congrArg (List.lookup · mnemonicSpellings) h

/-- A source command that breaks the check of R50 is an assembly error. -/
theorem expandLine_of_not_wellFormed {c : SourceCommand} (h : c.wellFormed = false) :
    expandLine (.command c) = .error .badOperand := by
  rw [expandLine, instrOfSource, h]
  rfl

/-- With an operand the check asks for a mnemonic that takes one, and for the range (R50). -/
theorem wellFormed_some (m : Mnemonic) (n : Nat) :
    (SourceCommand.mk m (some n)).wellFormed = (m.takesOperand && decide (n ≤ 255)) := rfl

/-- An operand above 255 is an assembly error, whatever the mnemonic (R50). -/
theorem expandLine_of_operand_gt (m : Mnemonic) {n : Nat} (h : 255 < n) :
    expandLine (.command ⟨m, some n⟩) = .error .badOperand :=
  expandLine_of_not_wellFormed (by
    rw [wellFormed_some, decide_eq_false (Nat.not_le.mpr h), Bool.and_false])

/-- An operand on a mnemonic that takes none is an assembly error (R50). -/
theorem expandLine_of_superfluous_operand {m : Mnemonic} (h : m.takesOperand = false) (n : Nat) :
    expandLine (.command ⟨m, some n⟩) = .error .badOperand :=
  expandLine_of_not_wellFormed (by rw [wellFormed_some, h, Bool.false_and])

/-- An operand in `0 .. 255` is the byte of the command (R44, R50). -/
theorem expandLine_of_operand_le {n : Nat} (h : n ≤ 255) :
    expandLine (.command ⟨.ckadc, some n⟩) = .ok [.ckadc (BitVec.ofNat 8 n)] ∧
    expandLine (.command ⟨.crcbyte, some n⟩) = .ok [.crcbyte (BitVec.ofNat 8 n)] := by
  have hwf : ∀ m : Mnemonic, m.takesOperand = true → (SourceCommand.mk m (some n)).wellFormed = true :=
    fun m hm => by rw [wellFormed_some, hm, decide_eq_true h, Bool.true_and]
  constructor
  · rw [expandLine, instrOfSource, hwf .ckadc rfl]
    rfl
  · rw [expandLine, instrOfSource, hwf .crcbyte rfl]
    rfl

/-- A printed hex digit reads back. -/
theorem readDigit_hexDigit {n : Nat} (h : n < 16) : readDigit 16 (hexDigit n) = some n := by
  have hall : ∀ k : Fin 16, readDigit 16 (hexDigit k) = some k.val := by decide
  exact hall ⟨n, h⟩

/-- Reading goes on after a printed hex digit with one more digit of value. -/
theorem readDigits_hexDigit_cons {n : Nat} (h : n < 16) (rest : List Char) (acc : Nat) :
    readDigits 16 (hexDigit n :: rest) acc = readDigits 16 rest (acc * 16 + n) := by
  rw [readDigits, readDigit_hexDigit h, Option.bind_some]

/-- The four hex digits of a listed word read back as the word (R50). -/
theorem readDigits_listingWord (w : Word) : readDigits 16 (listingWord w) 0 = some w.toNat := by
  have hmod : ∀ n : Nat, n % 16 < 16 := fun n => Nat.mod_lt n (by decide)
  have hdigits : (((0 * 16 + w.toNat / 4096 % 16) * 16 + w.toNat / 256 % 16) * 16 +
      w.toNat / 16 % 16) * 16 + w.toNat % 16 = w.toNat := by
    have hw : w.toNat < 65536 := w.isLt
    omega
  rw [listingWord, readDigits_hexDigit_cons (hmod _), readDigits_hexDigit_cons (hmod _),
    readDigits_hexDigit_cons (hmod _), readDigits_hexDigit_cons (hmod _), readDigits, hdigits]

/-- Settles O43: the spellings are the table's, and the check of R50 decides which operands pass. -/
theorem assemblerChecksOperands : Obligations.AssemblerChecksOperands := by
  refine ⟨⟨rfl, rfl, rfl, rfl, rfl, rfl, rfl, rfl, rfl, fun _ _ => readMnemonic_congr⟩,
    fun n => expandLine_of_operand_le,
    fun n hn => ⟨expandLine_of_operand_gt _ hn, expandLine_of_operand_gt _ hn⟩,
    expandLine_of_not_wellFormed rfl, expandLine_of_not_wellFormed rfl, fun p hp => ?_,
    fun w => ⟨rfl, readDigits_listingWord w⟩⟩
  simp only [List.mem_cons, List.not_mem_nil, or_false] at hp
  obtain rfl | rfl | rfl | rfl | rfl | rfl | rfl := hp
  all_goals exact ⟨rfl, expandLine_of_superfluous_operand rfl⟩

/-- Settles O44: the five texts are read, checked and encoded. -/
theorem assemblerReadsTheExamples : Obligations.AssemblerReadsTheExamples :=
  ⟨by decide, by decide, by decide, by decide, by decide⟩

end Sys2Proof.Machine
end

section
/-! The checksum unit's commands (spec/40_checksum.md R56 to R60): the word of each, and its effect on
the state with nothing else changed. -/

namespace Sys2Proof.Machine

/-- The operand stands below the opcode, in bits 7:0 of the word (R41, R57). -/
theorem encode_ckadc (b : Byte) : encode (.ckadc b) = 0x0200#16 ||| b.setWidth 16 :=
  BitVec.append_def (0#4 ++ 0x2#4) b

/-- The opcode of `CKCLR` with a non-zero `D` is no command (R41, R46, R56). -/
theorem decode_ckclr_data_ne_zero {d : Byte} (h : d ≠ 0x00#8) :
    decode (0x01#8 ++ d) = .error .dataNotZero := by
  have hword : 0x01#8 ++ d = wordOfFields 0#4 0x1#4 d := rfl
  rw [hword, decode, rsvField_wordOfFields, if_pos rfl, opField_wordOfFields,
    dataField_wordOfFields]
  exact if_neg h

/-- `ACC` takes the sum modulo 256 (R57). -/
theorem accOut_eq_ofNat_mod (n : Nat) : accOut n = BitVec.ofNat 8 (n % 256) := by
  rw [accOut]
  exact congrArg _ (Nat.and_two_pow_sub_one_eq_mod n 8)

/-- `CARRY` takes the sum divided by 256 (R57). -/
theorem carryOut_eq_ofNat_div (n : Nat) : carryOut n = BitVec.ofNat 1 (n / 256) := by
  rw [carryOut, Nat.shiftRight_eq_div_pow]

/-- The patch byte and `ACC` make 0 modulo 256 (R58). -/
theorem acc_add_patchByte_mod (acc : Byte) : (acc.toNat + (patchByte acc).toNat) % 256 = 0 := by
  rw [patchByte_toNat]
  omega

/-- The flag as a byte is 0x01 or 0x00 (R60). -/
theorem carryByte_eq_ite (carry : Bit) :
    carryByte carry = if carry = 1#1 then 0x01#8 else 0x00#8 := by
  revert carry
  decide

/-- `CKCLR` writes the unit's initial values and answers `NONE` (R56). -/
theorem exec_ckclr (s : State) :
    exec .ckclr s = .next (respond .none (writeChecksum ckAccInit ckCarryInit s)) := rfl

/-- `CKADC` writes both parts of the sum and answers `NONE` (R57). -/
theorem exec_ckadc (b : Byte) (s : State) :
    exec (.ckadc b) s = .next (respond .none (writeChecksum (accOut (checksumSum s.acc s.carry b))
      (carryOut (checksumSum s.acc s.carry b)) s)) := rfl

/-- `CKSUM` answers the patch byte and writes nothing (R58). -/
theorem exec_cksum (s : State) : exec .cksum s = .next (respond (.data (patchByte s.acc)) s) := rfl

/-- `CKACC` answers `ACC` and writes nothing (R59). -/
theorem exec_ckacc (s : State) : exec .ckacc s = .next (respond (.data s.acc) s) := rfl

/-- `CKCY` answers the flag and writes nothing (R60). -/
theorem exec_ckcy (s : State) : exec .ckcy s = .next (respond (.data (carryByte s.carry)) s) := rfl

/-- Settles O15: the decoder accepts only the encoder's word, and the values written are the reset
values. -/
theorem ckclrClearsTheChecksumState : Obligations.CkclrClearsTheChecksumState :=
  ⟨fun _ => decode_eq_ok_iff, fun _ hd => ⟨_, decode_ckclr_data_ne_zero hd⟩, State.reset_acc,
    State.reset_carry, exec_ckclr⟩

/-- Settles O16: the two registers are the quotient and the remainder of the sum by 256. -/
theorem ckadcAddsWithCarry : Obligations.CkadcAddsWithCarry := by
  refine ⟨fun w b => ?_, fun b s => ⟨checksumSum_le s.acc s.carry b, ?_⟩⟩
  · rw [decode_eq_ok_iff, encode_ckadc]
  · rw [exec_ckadc, accOut_eq_ofNat_mod, carryOut_eq_ofNat_div]
    rfl

/-- Settles O17: `CARRY` does not enter the patch byte. -/
theorem cksumAnswersThePatchByte : Obligations.CksumAnswersThePatchByte :=
  ⟨fun _ => decode_eq_ok_iff, fun s =>
    ⟨patchByte s.acc, patchByte_toNat s.acc, acc_add_patchByte_mod s.acc, exec_cksum s⟩⟩

/-- Settles O18: the answer is the register itself. -/
theorem ckaccAnswersTheAccumulator : Obligations.CkaccAnswersTheAccumulator :=
  ⟨fun _ => decode_eq_ok_iff, exec_ckacc⟩

/-- Settles O19: the zero-extended flag is 0x01 or 0x00. -/
theorem ckcyAnswersTheCarry : Obligations.CkcyAnswersTheCarry := by
  refine ⟨fun _ => decode_eq_ok_iff, fun s => ?_⟩
  rw [exec_ckcy, carryByte_eq_ite]
  rfl

end Sys2Proof.Machine
end

section
/-! The checksum fold (spec/40_checksum.md R61, R62): runs of `CKADC` against the printed loop, and what
the patch byte guarantees for the forward fold. -/

namespace Sys2Proof.Machine

/-- A run of commands performs its first command and goes on with the others from there (R39, R73). -/
theorem runCommands_cons {i : Instr} {is : List Instr} {s t : State} (hready : s.ready)
    (hidle : s.pending = []) (h : exec i s = .next t) :
    runCommands (i :: is) s = runCommands is t :=
  run_cons hidle <|
    calc serveInput (.command (encode i)) s
        = runCommand (encode i) s := serveInput_command_of_ready _ hready
      _ = exec i s := runCommand_of_decode_ok s (decode_encode i)
      _ = .next t := h

/-- A run of no commands ends where it begins (R94). -/
theorem runCommands_nil {s : State} (h : s.pending = []) : runCommands [] s = .next s := run_nil h

/-- A step of the printed loop is the remainder and the quotient of its sum by 256 (R61). -/
theorem docChecksumStep_eq_mod_div (a : Nat × Nat) (b : Byte) :
    docChecksumStep a b = ((a.1 + b.toNat + a.2) % 256, (a.1 + b.toNat + a.2) / 256) :=
  congrArg₂ Prod.mk (Nat.and_two_pow_sub_one_eq_mod _ 8) (Nat.shiftRight_eq_div_pow _ 8)

/-- The registers `CKADC` writes are a step of the printed loop (R57, R61). -/
theorem checksumSum_eq_docChecksumStep (acc : Byte) (carry : Bit) (b : Byte) :
    ((accOut (checksumSum acc carry b)).toNat, (carryOut (checksumSum acc carry b)).toNat) =
      docChecksumStep (acc.toNat, carry.toNat) b := by
  rw [docChecksumStep_eq_mod_div, accOut_toNat, carryOut_toNat (checksumSum_le acc carry b)]
  rfl

/-- The block at `t` has gone on from `s` through `n` commands that write only the checksum unit's
registers, which now hold `sums`. -/
structure ChecksumRun (n : Nat) (sums : Nat × Nat) (s t : State) : Prop where
  ready : t.ready
  idle : t.pending = []
  sums_eq : (t.acc.toNat, t.carry.toNat) = sums
  crc_eq : t.crc = s.crc
  responses_eq : t.responses = s.responses ++ List.replicate n .none

/-- `CKADC` for each byte of a sequence runs the printed loop from the registers' values, and further
commands take effect from there (R61, R84). -/
theorem runCommands_map_ckadc (bytes : List Byte) {s : State} (hready : s.ready)
    (hidle : s.pending = []) :
    ∃ t, ChecksumRun bytes.length (docChecksumLoop (s.acc.toNat, s.carry.toNat) bytes) s t ∧
      ∀ is, runCommands (bytes.map .ckadc ++ is) s = runCommands is t := by
  induction bytes generalizing s with
  | nil => exact ⟨s, ⟨hready, hidle, rfl, rfl, (List.append_nil _).symm⟩, fun _ => rfl⟩
  | cons b bytes ih =>
    obtain ⟨t, ht, hrun⟩ := ih (s := respond .none (writeChecksum
      (accOut (checksumSum s.acc s.carry b)) (carryOut (checksumSum s.acc s.carry b)) s)) hready hidle
    refine ⟨t, ⟨ht.ready, ht.idle, ?_, ht.crc_eq, ?_⟩, fun is => ?_⟩
    · rw [ht.sums_eq, docChecksumLoop, ← checksumSum_eq_docChecksumStep]
      rfl
    · rw [ht.responses_eq, List.length_cons, List.replicate_succ]
      exact List.append_assoc ..
    · exact (runCommands_cons hready hidle (exec_ckadc b s)).trans (hrun is)

/-- `CKCLR` and then `CKADC` for each byte of a sequence runs the printed loop from zero (R61). -/
theorem runCommands_ckclr_map_ckadc (bytes : List Byte) {s : State} (hready : s.ready)
    (hidle : s.pending = []) :
    ∃ t, ChecksumRun (bytes.length + 1) (docChecksumLoop (0, 0) bytes) s t ∧
      ∀ is, runCommands (.ckclr :: bytes.map .ckadc ++ is) s = runCommands is t := by
  obtain ⟨t, ht, hrun⟩ := runCommands_map_ckadc bytes
    (s := respond .none (writeChecksum ckAccInit ckCarryInit s)) hready hidle
  refine ⟨t, ⟨ht.ready, ht.idle, ht.sums_eq, ht.crc_eq, ?_⟩, fun is => ?_⟩
  · rw [ht.responses_eq, List.replicate_succ]
    exact List.append_assoc ..
  · exact (runCommands_cons hready hidle (exec_ckclr s)).trans (hrun is)

/-- The patch byte of the printed loop's `acc` is the document's checksum byte (R58, R61). -/
theorem patchByte_eq_docChecksum {acc : Byte} {payload : List Byte}
    (h : acc.toNat = (docChecksumLoop (0, 0) payload.reverse).1) :
    patchByte acc = BitVec.ofNat 8 (docChecksum payload) := by
  rw [patchByte, h, docChecksum]

/-- `CKFOLD` and `CKSUM` run the printed loop over the reversed payload, and then only answer the patch
byte (R61). -/
theorem runCommands_ckfold_cksum (payload : List Byte) {s : State} (hready : s.ready)
    (hidle : s.pending = []) :
    ∃ t, ChecksumRun (payload.length + 1) (docChecksumLoop (0, 0) payload.reverse) s t ∧
      runCommands (ckfold payload ++ [.cksum]) s = .next (respond (.data (patchByte t.acc)) t) := by
  obtain ⟨t, ht, hrun⟩ := runCommands_ckclr_map_ckadc payload.reverse hready hidle
  refine ⟨t, List.length_reverse (as := payload) ▸ ht, ?_⟩
  calc runCommands (ckfold payload ++ [.cksum]) s
      = runCommands [.cksum] t := hrun [.cksum]
    _ = runCommands [] (respond (.data (patchByte t.acc)) t) :=
        runCommands_cons ht.ready ht.idle (exec_cksum t)
    _ = .next (respond (.data (patchByte t.acc)) t) := runCommands_nil ht.idle

/-- Settles O34: the fold's registers are the printed loop's, and `CKSUM` adds only its answer. -/
theorem checksumFoldComputesTheDocumentsByte : Obligations.ChecksumFoldComputesTheDocumentsByte := by
  refine ⟨fun payload s hready hidle => ?_, by decide, by decide⟩
  obtain ⟨t, ht, hrun⟩ := runCommands_ckfold_cksum payload hready hidle
  have hacc := congrArg Prod.fst ht.sums_eq
  have hcarry := congrArg Prod.snd ht.sums_eq
  refine ⟨_, hrun, hacc, hcarry, ht.crc_eq, ?_⟩
  rw [respond_responses, ht.responses_eq, patchByte_eq_docChecksum hacc]

/-- The last response, where it is a `DATA`, is the value a host takes (R88). -/
theorem lastData_respond_data (v : Byte) (s : State) : lastData (respond (.data v) s) = some v := by
  rw [lastData, respond_responses, List.getLast?_concat]

/-- The bytes of a sequence, added as natural numbers. -/
def byteSum (bytes : List Byte) : Nat := (bytes.map BitVec.toNat).sum

theorem byteSum_cons (b : Byte) (bytes : List Byte) :
    byteSum (b :: bytes) = b.toNat + byteSum bytes := List.sum_cons

/-- The order of the bytes does not enter their sum. -/
theorem byteSum_reverse (bytes : List Byte) : byteSum bytes.reverse = byteSum bytes := by
  rw [byteSum, List.map_reverse, List.sum_reverse, byteSum]

/-- The loop's `acc` is, modulo 256, the sum of all bytes and of the carries fed back: each step drops
only a multiple of 256 from its sum (R62). -/
theorem docChecksumLoop_acc_mod (a : Nat × Nat) (bytes : List Byte) :
    (docChecksumLoop a bytes).1 % 256 = (a.1 + byteSum bytes + carriesFedBack a bytes) % 256 := by
  induction bytes generalizing a with
  | nil => rfl
  | cons b bytes ih =>
    have hstep : (docChecksumStep a b).1 = (a.1 + b.toNat + a.2) % 256 :=
      congrArg Prod.fst (docChecksumStep_eq_mod_div a b)
    rw [docChecksumLoop, ih, hstep, byteSum_cons, carriesFedBack]
    omega

/-- A fold from zero leaves in `ACC` the sum of the bytes and of the carries fed back, modulo 256
(R62). -/
theorem ChecksumRun.acc_eq {n : Nat} {bytes : List Byte} {s t : State}
    (h : ChecksumRun n (docChecksumLoop (0, 0) bytes) s t) :
    t.acc.toNat = (byteSum bytes + carriesFedBack (0, 0) bytes) % 256 := by
  have hacc : t.acc.toNat = (docChecksumLoop (0, 0) bytes).1 := congrArg Prod.fst h.sums_eq
  have hmod := docChecksumLoop_acc_mod (0, 0) bytes
  omega

/-- Settles O35: the two folds add the same payload, once with `c` and once without, and `c` cancels
the reversed fold, so only the two numbers of carries are left. -/
theorem patchByteGuarantee : Obligations.PatchByteGuarantee := by
  refine ⟨fun payload s hready hidle => ?_, by decide, by decide, by decide, by decide, by decide⟩
  obtain ⟨t, ht, hrun⟩ := runCommands_ckfold_cksum payload hready hidle
  obtain ⟨u, hu, hforward⟩ :=
    runCommands_ckclr_map_ckadc (patchByte t.acc :: payload) hready hidle
  have hreverse : t.acc.toNat =
      (byteSum payload + carriesFedBack (0, 0) payload.reverse) % 256 := by
    rw [ht.acc_eq, byteSum_reverse]
  have hforwardAcc := hu.acc_eq
  rw [byteSum_cons] at hforwardAcc
  have hcancel := acc_add_patchByte_mod t.acc
  refine ⟨_, patchByte t.acc, u, hrun, lastData_respond_data _ t, hcancel, ?_, ?_, ?_⟩
  · exact (List.append_nil _ ▸ hforward []).trans (runCommands_nil hu.idle)
  · omega
  · rw [← BitVec.toNat_inj, BitVec.toNat_ofNat]
    omega

end Sys2Proof.Machine
end

section
/-! The signature unit's commands (spec/41_signature.md R63 to R66): the word of each, and its effect on
the state with nothing else changed; the shift rounds against the printed loop. -/

namespace Sys2Proof.Machine

/-- The operand stands below the opcode, in bits 7:0 of the word (R41, R64). -/
theorem encode_crcbyte (b : Byte) : encode (.crcbyte b) = 0x0A00#16 ||| b.setWidth 16 :=
  BitVec.append_def (0#4 ++ 0xA#4) b

/-- `CRCINIT` writes the initial value and answers `NONE` (R63). -/
theorem exec_crcinit (s : State) :
    exec .crcinit s = .next (respond .none (writeCrc crcInit s)) := rfl

/-- `CRCBYTE` writes the value of the eight rounds and answers `NONE` (R64). -/
theorem exec_crcbyte (b : Byte) (s : State) :
    exec (.crcbyte b) s = .next (respond .none (writeCrc (crcStep s.crc b) s)) := rfl

/-- `CRCLO` answers the low byte and writes nothing (R65). -/
theorem exec_crclo (s : State) : exec .crclo s = .next (respond (.data (crcLowByte s.crc)) s) := rfl

/-- `CRCHI` answers the high byte and writes nothing (R66). -/
theorem exec_crchi (s : State) : exec .crchi s = .next (respond (.data (crcHighByte s.crc)) s) := rfl

/-- The low byte as R65 computes it. -/
theorem crcLowByte_eq_ofNat (crc : Word) : crcLowByte crc = BitVec.ofNat 8 (crc.toNat % 256) :=
  extractLow_eq_ofNat crc

/-- The high byte as R66 computes it. -/
theorem crcHighByte_eq_ofNat (crc : Word) : crcHighByte crc = BitVec.ofNat 8 (crc.toNat / 256) :=
  extractHigh_eq_ofNat crc

/-- The shift of a register drops the bit above 15, as the printed `& 0xFFFF` does (R64). -/
theorem toNat_shiftLeft_one (r : Word) : (r <<< 1).toNat = (r.toNat <<< 1) &&& 0xFFFF :=
  (BitVec.toNat_shiftLeft ..).trans (Nat.and_two_pow_sub_one_eq_mod _ 16).symm

/-- A shift round is a round of the printed loop (R64). -/
theorem crcRound_toNat (r : Word) : (crcRound r).toNat = docCrcRound r.toNat := by
  cases hbit : r.getLsbD 15 with
  | false =>
    have hdoc : r.toNat.testBit 15 = false := hbit
    rw [crcRound_of_no_bit hbit, docCrcRound, hdoc, toNat_shiftLeft_one]
    rfl
  | true =>
    have hdoc : r.toNat.testBit 15 = true := hbit
    rw [crcRound_of_bit hbit, docCrcRound, hdoc, BitVec.toNat_xor, toNat_shiftLeft_one, if_pos rfl,
      Nat.and_xor_distrib_right]
    rfl

/-- Shift rounds are the printed repetition of the round (R64). -/
theorem crcRounds_toNat (n : Nat) (r : Word) : (crcRounds n r).toNat = docCrcRepeat n r.toNat := by
  induction n generalizing r with
  | zero => rfl
  | succ n ih => rw [crcRounds_succ, ih, crcRound_toNat, docCrcRepeat]

/-- The operand is the byte shifted left by eight (R64). -/
theorem crcOperand_toNat_shiftLeft (b : Byte) : (crcOperand b).toNat = b.toNat <<< 8 := by
  rw [crcOperand_toNat, Nat.shiftLeft_eq, Nat.mul_comm]

/-- `CRCBYTE` computes the body of R64's loop over natural numbers. -/
theorem crcStep_toNat (crc : Word) (b : Byte) :
    (crcStep crc b).toNat = docCrcStep crc.toNat b := by
  rw [crcStep, crcRounds_toNat, BitVec.toNat_xor, crcOperand_toNat_shiftLeft, docCrcStep]
  rfl

/-- Settles O20: the decoder accepts only the encoder's word, and the value written is the reset
value. -/
theorem crcinitLoadsTheInitialValue : Obligations.CrcinitLoadsTheInitialValue :=
  ⟨fun _ => decode_eq_ok_iff, State.reset_crc, exec_crcinit⟩

/-- Settles O21: the machine's rounds are the printed loop's, one by one. -/
theorem crcbyteRunsEightRounds : Obligations.CrcbyteRunsEightRounds := by
  refine ⟨fun w b => ?_, fun b s => ⟨_, crcStep_toNat s.crc b, exec_crcbyte b s⟩⟩
  rw [decode_eq_ok_iff, encode_crcbyte]

/-- Settles O22: the answer is the register modulo 256. -/
theorem crcloAnswersTheLowByte : Obligations.CrcloAnswersTheLowByte := by
  refine ⟨fun _ => decode_eq_ok_iff, fun s => ?_⟩
  rw [exec_crclo, crcLowByte_eq_ofNat]
  rfl

/-- Settles O23: the answer is the register divided by 256. -/
theorem crchiAnswersTheHighByte : Obligations.CrchiAnswersTheHighByte := by
  refine ⟨fun _ => decode_eq_ok_iff, fun s => ?_⟩
  rw [exec_crchi, crcHighByte_eq_ofNat]
  rfl

end Sys2Proof.Machine
end

section
/-! The signature fold (spec/41_signature.md R67): runs of `CRCBYTE` against the printed loop. -/

namespace Sys2Proof.Machine

/-- The block at `t` has gone on from `s` through `n` commands that write only the signature unit's
register, which now holds `reg`. -/
structure SignatureRun (n reg : Nat) (s t : State) : Prop where
  ready : t.ready
  idle : t.pending = []
  crc_eq : t.crc.toNat = reg
  acc_eq : t.acc = s.acc
  carry_eq : t.carry = s.carry
  responses_eq : t.responses = s.responses ++ List.replicate n .none

/-- `CRCBYTE` for each byte of a sequence runs the printed loop from the register's value, and further
commands take effect from there (R67, R84). -/
theorem runCommands_map_crcbyte (bytes : List Byte) {s : State} (hready : s.ready)
    (hidle : s.pending = []) :
    ∃ t, SignatureRun bytes.length (docCrcLoop s.crc.toNat bytes) s t ∧
      ∀ is, runCommands (bytes.map .crcbyte ++ is) s = runCommands is t := by
  induction bytes generalizing s with
  | nil => exact ⟨s, ⟨hready, hidle, rfl, rfl, rfl, (List.append_nil _).symm⟩, fun _ => rfl⟩
  | cons b bytes ih =>
    obtain ⟨t, ht, hrun⟩ :=
      ih (s := respond .none (writeCrc (crcStep s.crc b) s)) hready hidle
    refine ⟨t, ⟨ht.ready, ht.idle, ?_, ht.acc_eq, ht.carry_eq, ?_⟩, fun is => ?_⟩
    · rw [ht.crc_eq, docCrcLoop, ← crcStep_toNat]
      rfl
    · rw [ht.responses_eq, List.length_cons, List.replicate_succ]
      exact List.append_assoc ..
    · exact (runCommands_cons hready hidle (exec_crcbyte b s)).trans (hrun is)

/-- `CRCFOLD` runs the printed loop from the initial value (R67). -/
theorem runCommands_crcfold (bytes : List Byte) {s : State} (hready : s.ready)
    (hidle : s.pending = []) :
    ∃ t, SignatureRun (bytes.length + 1) (docSignature bytes) s t ∧
      ∀ is, runCommands (crcfold bytes ++ is) s = runCommands is t := by
  obtain ⟨t, ht, hrun⟩ := runCommands_map_crcbyte bytes
    (s := respond .none (writeCrc crcInit s)) hready hidle
  refine ⟨t, ⟨ht.ready, ht.idle, ht.crc_eq, ht.acc_eq, ht.carry_eq, ?_⟩, fun is => ?_⟩
  · rw [ht.responses_eq, List.replicate_succ]
    exact List.append_assoc ..
  · exact (runCommands_cons hready hidle (exec_crcinit s)).trans (hrun is)

/-- `RDSIG` answers the low and then the high byte of the register, and writes nothing (R53). -/
theorem runCommands_rdsig {s : State} (hready : s.ready) (hidle : s.pending = []) :
    runCommands rdsig s =
      .next (respond (.data (crcHighByte s.crc)) (respond (.data (crcLowByte s.crc)) s)) :=
  calc runCommands rdsig s
      = runCommands [.crchi] (respond (.data (crcLowByte s.crc)) s) :=
        runCommands_cons hready hidle (exec_crclo s)
    _ = runCommands [] (respond (.data (crcHighByte s.crc)) (respond (.data (crcLowByte s.crc)) s)) :=
        runCommands_cons hready hidle (exec_crchi _)
    _ = .next (respond (.data (crcHighByte s.crc)) (respond (.data (crcLowByte s.crc)) s)) :=
        runCommands_nil hidle

/-- Settles O36: the fold leaves the printed loop's `reg`, and `RDSIG` adds only its two answers. -/
theorem signatureFoldComputesTheDocumentsValue :
    Obligations.SignatureFoldComputesTheDocumentsValue := by
  refine ⟨fun bytes s hready hidle => ?_, by decide, by decide⟩
  obtain ⟨t, ht, hrun⟩ := runCommands_crcfold bytes hready hidle
  refine ⟨_, (hrun rdsig).trans (runCommands_rdsig ht.ready ht.idle), ht.crc_eq, ht.acc_eq,
    ht.carry_eq, ?_⟩
  rw [respond_responses, respond_responses, ht.responses_eq, crcLowByte_eq_ofNat,
    crcHighByte_eq_ofNat, ht.crc_eq, List.append_assoc _ [_] [_]]
  rfl

end Sys2Proof.Machine
end

section
/-! The table form and linearity (spec/41_signature.md R68, R69): what the rounds do to a sum of two
registers, and to a register whose high byte is zero. -/

namespace Sys2Proof.Machine

/-- Rounds are linear over GF(2) (R69). -/
theorem crcRounds_xor (n : Nat) (r q : Word) :
    crcRounds n (r ^^^ q) = crcRounds n r ^^^ crcRounds n q := by
  induction n generalizing r q with
  | zero => rfl
  | succ n ih => rw [crcRounds_succ, crcRound_xor, ih, crcRounds_succ, crcRounds_succ]

/-- The operand of a sum of bytes is the sum of the operands (R69). -/
theorem crcOperand_xor (b c : Byte) : crcOperand (b ^^^ c) = crcOperand b ^^^ crcOperand c := by
  rw [crcOperand, BitVec.setWidth_xor, BitVec.shiftLeft_xor_distrib]
  rfl

/-- `CRCBYTE` is linear over GF(2) in the register and the byte together (R69). -/
theorem crcStep_xor (r q : Word) (b c : Byte) :
    crcStep (r ^^^ q) (b ^^^ c) = crcStep r b ^^^ crcStep q c := by
  have hsum : (r ^^^ q) ^^^ crcOperand (b ^^^ c) = (r ^^^ crcOperand b) ^^^ (q ^^^ crcOperand c) := by
    rw [crcOperand_xor]
    ac_rfl
  rw [crcStep, hsum, crcRounds_xor]
  rfl

/-- A zero byte leaves a zero register (R69). -/
theorem crcStep_zero : crcStep 0x0000#16 0x00#8 = 0x0000#16 := by decide

/-- Settles O39: the register's step is linear, so the command is. -/
theorem crcbyteIsLinear : Obligations.CrcbyteIsLinear := by
  refine ⟨fun b1 b2 s1 s2 => ⟨_, _, _, exec_crcbyte b1 s1, exec_crcbyte b2 s2, exec_crcbyte _ _, ?_⟩,
    fun s hs => ⟨_, exec_crcbyte 0x00#8 s, ?_⟩, by decide +kernel⟩
  · exact crcStep_xor s1.crc s2.crc b1 b2
  · rw [respond_crc, writeCrc_crc, hs, crcStep_zero]

/-- While only zeros leave the register the rounds feed nothing back: they only shift (R64). -/
theorem crcRounds_eq_shiftLeft {n : Nat} {r : Word} (h : r.toNat * 2 ^ n < 2 ^ 16) :
    crcRounds n r = r <<< n := by
  induction n generalizing r with
  | zero => rw [crcRounds_zero, BitVec.shiftLeft_zero]
  | succ n ih =>
    have hpow : 1 ≤ 2 ^ n := Nat.one_le_two_pow
    have hsucc : r.toNat * 2 * 2 ^ n < 2 ^ 16 := by rwa [Nat.mul_assoc, ← Nat.pow_succ']
    have hlt : r.toNat * 2 < 2 ^ 16 := lt_of_le_of_lt (Nat.le_mul_of_pos_right _ hpow) hsucc
    have hbit : r.getLsbD 15 = false := Nat.testBit_lt_two_pow (by omega)
    have hshift : (r <<< 1).toNat = r.toNat * 2 := by
      rw [BitVec.toNat_shiftLeft, Nat.shiftLeft_eq, Nat.mod_eq_of_lt hlt]
    rw [crcRounds_succ, crcRound_of_no_bit hbit, ih (hshift ▸ hsucc), ← BitVec.shiftLeft_add,
      Nat.add_comm]

/-- A register is its high byte at bits 15:8 and its low byte below. -/
theorem crcOperand_high_xor_low (crc : Word) :
    crcOperand (crcHighByte crc) ^^^ (crcLowByte crc).setWidth 16 = crc := by
  apply BitVec.eq_of_getLsbD_eq
  intro k hk
  by_cases hlow : k < 8
  · simp [crcOperand, crcHighByte, crcLowByte, hk, hlow]
  · have hindex : 8 + (k - 8) = k := by omega
    have hhigh : k - 8 < 8 := by omega
    simp [crcOperand, crcHighByte, crcLowByte, hk, hlow, hindex, hhigh]

/-- The low byte alone is shifted to bits 15:8 by eight rounds, as the whole register is by a shift. -/
theorem crcRounds_lowByte (crc : Word) :
    crcRounds 8 ((crcLowByte crc).setWidth 16) = crc <<< 8 := by
  have hlow : ((crcLowByte crc).setWidth 16).toNat = crc.toNat % 256 := by
    rw [BitVec.toNat_setWidth, crcLowByte_toNat]
    omega
  rw [crcRounds_eq_shiftLeft (by omega)]
  apply BitVec.eq_of_toNat_eq
  rw [BitVec.toNat_shiftLeft, BitVec.toNat_shiftLeft, hlow, Nat.shiftLeft_eq, Nat.shiftLeft_eq]
  omega

/-- Only the high byte with the operand added to it goes through the feedback; the low byte is shifted
up beside it (R68). -/
theorem crcStep_eq_shiftLeft_xor_rounds (crc : Word) (b : Byte) :
    crcStep crc b = (crc <<< 8) ^^^ crcRounds 8 (crcOperand (crcHighByte crc ^^^ b)) := by
  have hsplit : crc ^^^ crcOperand b =
      (crcLowByte crc).setWidth 16 ^^^ crcOperand (crcHighByte crc ^^^ b) := by
    calc crc ^^^ crcOperand b
        = (crcOperand (crcHighByte crc) ^^^ (crcLowByte crc).setWidth 16) ^^^ crcOperand b := by
          rw [crcOperand_high_xor_low]
      _ = (crcLowByte crc).setWidth 16 ^^^ (crcOperand (crcHighByte crc) ^^^ crcOperand b) := by
          ac_rfl
      _ = (crcLowByte crc).setWidth 16 ^^^ crcOperand (crcHighByte crc ^^^ b) := by
          rw [crcOperand_xor]
  rw [crcStep, crcRoundsPerByte, hsplit, crcRounds_xor, crcRounds_lowByte]

theorem crcTable_length : crcTable.length = 256 := by
  have h00 : crcTable00.length = 64 := rfl
  have h40 : crcTable40.length = 64 := rfl
  have h80 : crcTable80.length = 64 := rfl
  have hC0 : crcTableC0.length = 64 := rfl
  rw [crcTable, List.length_append, List.length_append, List.length_append, h00, h40, h80, hC0]

/-- Each of the 256 printed entries of V-S15 is what the rounds give for its index (R68). -/
theorem crcTable_getElem? (i : Byte) : crcTable[i.toNat]? = some (crcRounds 8 (crcOperand i)) := by
  revert i
  decide

/-- Settles O38: the entry read is the feedback's share of the step, and the shift is the rest. -/
theorem tableFormAgreesWithTheRounds : Obligations.TableFormAgreesWithTheRounds := by
  refine ⟨crcTable_length, fun i => ⟨_, crcTable_getElem? i, ?_⟩,
    fun b s => ⟨_, _, exec_crcbyte b s, ?_, crcStep_eq_shiftLeft_xor_rounds s.crc b⟩⟩
  · rw [crcRounds_toNat, crcOperand_toNat_shiftLeft]
  · have hindex : s.crc.toNat / 256 ^^^ b.toNat = (crcHighByte s.crc ^^^ b).toNat := by
      rw [BitVec.toNat_xor, crcHighByte_toNat]
    rw [hindex, crcTable_getElem?]

end Sys2Proof.Machine
end

section
/-! The polynomial reading (spec/41_signature.md R69): the bits of a number as the coefficients of a
polynomial over GF(2), in which a round multiplies by `x` and takes the divisor off. -/

namespace Sys2Proof.Machine

open Polynomial

/-- The low `n` bits of `v` as a polynomial over GF(2), bit `k` the coefficient of `x^k` (R69). -/
noncomputable def bitPoly (n v : Nat) : (ZMod 2)[X] :=
  ∑ k ∈ Finset.range n, if v.testBit k then X ^ k else 0

/-- One more bit adds the highest term. -/
theorem bitPoly_succ (n v : Nat) :
    bitPoly (n + 1) v = bitPoly n v + if v.testBit n then X ^ n else 0 :=
  Finset.sum_range_succ ..

/-- Only the bits that are read matter. -/
theorem bitPoly_congr {n v w : Nat} (h : ∀ k < n, v.testBit k = w.testBit k) :
    bitPoly n v = bitPoly n w :=
  Finset.sum_congr rfl fun k hk => by rw [h k (Finset.mem_range.mp hk)]

/-- XOR is the sum of the polynomials, since a term added twice is 0 over GF(2). -/
theorem bitPoly_xor (n v w : Nat) : bitPoly n (v ^^^ w) = bitPoly n v + bitPoly n w := by
  rw [bitPoly, bitPoly, bitPoly, ← Finset.sum_add_distrib]
  refine Finset.sum_congr rfl fun k _ => ?_
  rw [Nat.testBit_xor]
  cases v.testBit k <;> cases w.testBit k <;> simp [CharTwo.add_self_eq_zero]

/-- A shift left multiplies by `x`. -/
theorem bitPoly_shiftLeft_one (n v : Nat) : bitPoly (n + 1) (v <<< 1) = bitPoly n v * X := by
  rw [bitPoly, Finset.sum_range_succ', bitPoly, Finset.sum_mul]
  simp [Nat.testBit_shiftLeft, ite_mul, pow_succ]

/-- A shift left by `m` multiplies by `x^m`. -/
theorem bitPoly_shiftLeft (n m v : Nat) : bitPoly (n + m) (v <<< m) = bitPoly n v * X ^ m := by
  induction m with
  | zero => simp
  | succ m ih => rw [Nat.shiftLeft_add, ← Nat.add_assoc, bitPoly_shiftLeft_one, ih, pow_succ, mul_assoc]

/-- The mask `0xFFFF` keeps the sixteen bits that are read. -/
theorem bitPoly_and_mask (v : Nat) : bitPoly 16 (v &&& 0xFFFF) = bitPoly 16 v := by
  refine bitPoly_congr fun k hk => ?_
  rw [show 0xFFFF = 2 ^ 16 - 1 from rfl, Nat.testBit_and, Nat.testBit_two_pow_sub_one,
    decide_eq_true hk, Bool.and_true]

/-- The divisor of which 0x1021 gives the terms below `x^16` (R69). -/
noncomputable def crcDivisor : (ZMod 2)[X] := X ^ 16 + X ^ 12 + X ^ 5 + 1

/-- 0x1021 has bits 12, 5 and 0 (R69). -/
theorem bitPoly_crcPoly : bitPoly 16 0x1021 = X ^ 12 + X ^ 5 + 1 := by
  simp [bitPoly, Finset.sum_range_succ, Nat.testBit]
  ring

/-- The divisor is the printed terms under an implicit `x^16` (R69). -/
theorem crcDivisor_eq : crcDivisor = X ^ 16 + bitPoly 16 0x1021 := by
  rw [bitPoly_crcPoly, crcDivisor]
  ring

/-- The divisor's leading coefficient is 1, so division by it is defined. -/
theorem crcDivisor_monic : crcDivisor.Monic := by
  unfold crcDivisor
  monicity!

theorem crcDivisor_natDegree : crcDivisor.natDegree = 16 := by
  unfold crcDivisor
  compute_degree!

/-- A polynomial of `n` bits has degree below `n`. -/
theorem degree_bitPoly_lt (n v : Nat) : (bitPoly n v).degree < n := by
  refine mem_degreeLT.mp (Submodule.sum_mem _ fun k hk => ?_)
  split
  · rw [mem_degreeLT, degree_X_pow]
    exact_mod_cast Finset.mem_range.mp hk
  · exact zero_mem _

/-- A round multiplies by `x` and, where the bit shifted out is 1, takes the divisor off, which is
adding it (R64, R69). -/
theorem bitPoly_docCrcRound (r : Nat) :
    bitPoly 16 (docCrcRound r) = bitPoly 16 r * X + if r.testBit 15 then crcDivisor else 0 := by
  have hshift : bitPoly 16 r * X = bitPoly 16 (r <<< 1) + if r.testBit 15 then X ^ 16 else 0 := by
    rw [← bitPoly_shiftLeft_one, bitPoly_succ, Nat.testBit_shiftLeft]
    rfl
  rw [hshift, docCrcRound]
  cases r.testBit 15 with
  | false => simp [bitPoly_and_mask]
  | true =>
    simp only [if_true]
    rw [bitPoly_and_mask, bitPoly_xor, crcDivisor_eq, add_assoc, CharTwo.add_cancel_left]

/-- `n` rounds multiply by `x^n`, up to a multiple of the divisor (R64, R69). -/
theorem crcDivisor_dvd_docCrcRepeat (n r : Nat) :
    crcDivisor ∣ bitPoly 16 (docCrcRepeat n r) - bitPoly 16 r * X ^ n := by
  induction n generalizing r with
  | zero => simp [docCrcRepeat]
  | succ n ih =>
    have hround : crcDivisor ∣ bitPoly 16 (docCrcRound r) - bitPoly 16 r * X := by
      rw [bitPoly_docCrcRound, add_sub_cancel_left]
      split
      · exact dvd_rfl
      · exact dvd_zero _
    have hsum : bitPoly 16 (docCrcRepeat (n + 1) r) - bitPoly 16 r * X ^ (n + 1) =
        (bitPoly 16 (docCrcRepeat n (docCrcRound r)) - bitPoly 16 (docCrcRound r) * X ^ n) +
          (bitPoly 16 (docCrcRound r) - bitPoly 16 r * X) * X ^ n := by
      rw [docCrcRepeat]
      ring
    rw [hsum]
    exact dvd_add (ih _) (hround.mul_right _)

/-- Sixteen bits that differ from a polynomial by a multiple of the divisor are its remainder. -/
theorem bitPoly_eq_modByMonic {v : Nat} {p : (ZMod 2)[X]} (h : crcDivisor ∣ bitPoly 16 v - p) :
    bitPoly 16 v = p %ₘ crcDivisor := by
  have hdegree : (bitPoly 16 v).degree < crcDivisor.degree := by
    rw [degree_eq_natDegree crcDivisor_monic.ne_zero, crcDivisor_natDegree]
    exact degree_bitPoly_lt 16 v
  calc bitPoly 16 v
      = bitPoly 16 v %ₘ crcDivisor := ((modByMonic_eq_self_iff crcDivisor_monic).mpr hdegree).symm
    _ = p %ₘ crcDivisor := modByMonic_eq_of_dvd_sub crcDivisor_monic h

/-- The register with the byte at bits 15:8, times `x^8`, is the dividend of R69. -/
theorem bitPoly_xor_operand_mul (crc : Nat) (b : Byte) :
    bitPoly 16 (crc ^^^ b.toNat <<< 8) * X ^ 8 =
      bitPoly 16 crc * X ^ 8 + bitPoly 8 b.toNat * X ^ 16 := by
  rw [bitPoly_xor, bitPoly_shiftLeft 8 8]
  ring

/-- Settles O40: the eight rounds change the dividend by a multiple of the divisor, and sixteen bits
are below its degree. -/
theorem crcbyteIsPolynomialRemainder : Obligations.CrcbyteIsPolynomialRemainder := by
  intro b s
  refine ⟨_, exec_crcbyte b s, ?_⟩
  have hdvd := crcDivisor_dvd_docCrcRepeat 8 (s.crc.toNat ^^^ b.toNat <<< 8)
  rw [bitPoly_xor_operand_mul] at hdvd
  change bitPoly 16 (crcStep s.crc b).toNat =
    (bitPoly 16 s.crc.toNat * X ^ 8 + bitPoly 8 b.toNat * X ^ 16) %ₘ crcDivisor
  rw [crcStep_toNat, docCrcStep]
  exact bitPoly_eq_modByMonic hdvd

end Sys2Proof.Machine
end

section
/-! The exception `IllegalCommand` (spec/60_exceptions.md R70, R71, R73): which words raise it, the step
that takes it, and that no legal command does. -/

namespace Sys2Proof.Machine

/-- A ready block takes the exception of an illegal word at the head of its channel (R70, R73). -/
theorem step_of_decode_error {s : State} {w : Word} {rest : List HostInput} {e : IllegalReason}
    (hready : s.ready) (hpending : s.pending = .command w :: rest) (hdecode : decode w = .error e) :
    step s = .next (takeIllegalCommand w (withPending rest s)) :=
  calc step s
      = serveInput (.command w) (withPending rest s) := step_of_pending_cons hpending
    _ = runCommand w (withPending rest s) := serveInput_command_of_ready w hready
    _ = .next (takeIllegalCommand w (withPending rest s)) := runCommand_of_decode_error _ hdecode

/-- Settles O7: the state after the exception is ready with the next input at its head, so a legal word
there runs as at any other step. -/
theorem illegalCommandIsPrecise : Obligations.IllegalCommandIsPrecise := by
  intro s w rest hready hpending
  refine ⟨fun i hdecode => stepRunsTheDecodedCommand s w rest i hready hpending hdecode,
    fun e hdecode => ⟨_, step_of_decode_error hready hpending hdecode, rfl, ?_⟩⟩
  intro w2 rest2 i hrest hdecode2
  exact stepRunsTheDecodedCommand _ w2 rest2 i hready hrest hdecode2

/-- A command without an operand is refused exactly with a non-zero data field (R46). -/
theorem withoutOperand_error_iff {d : Byte} {i : Instr} :
    (∃ e, withoutOperand d i = .error e) ↔ d.toNat ≠ 0 := by
  have hzero : d = 0x00#8 ↔ d.toNat = 0 := BitVec.toNat_inj.symm
  unfold withoutOperand
  split
  next h => exact iff_of_false (by simp) (not_not_intro (hzero.mp h))
  next h => exact iff_of_true ⟨_, rfl⟩ (mt hzero.mpr h)

/-- The opcode map refuses a reserved opcode, and a non-zero data field where there is no operand (R43,
R46). -/
theorem decodeOpcode_error_iff (op : BitVec 4) (d : Byte) :
    (∃ e, decodeOpcode op d = .error e) ↔
      op.toNat ∈ [0x0, 0x6, 0x7, 0x8, 0xD, 0xE, 0xF] ∨ (d.toNat ≠ 0 ∧ op.toNat ∉ [0x2, 0xA]) := by
  have hop : op.toNat < 16 := op.isLt
  unfold decodeOpcode
  split
  -- `CKADC` and `CRCBYTE` are accepted with any data.
  case h_2 h | h_7 h => simp [h]
  case h_10 =>
    refine iff_of_true ⟨_, rfl⟩ (.inl ?_)
    simp only [List.mem_cons, List.not_mem_nil, or_false, imp_false] at *
    omega
  all_goals simp [withoutOperand_error_iff, *]

/-- The field `RSV` is the word's value divided by 4096 (R41). -/
theorem rsvField_toNat (w : Word) : (rsvField w).toNat = w.toNat / 4096 := by
  have := w.isLt
  simp only [rsvField, BitVec.extractLsb'_toNat, Nat.shiftRight_eq_div_pow]
  omega

/-- The field `OP` is bits 11:8 of the word's value (R41). -/
theorem opField_toNat (w : Word) : (opField w).toNat = w.toNat / 256 % 16 := by
  simp [opField, Nat.shiftRight_eq_div_pow]

/-- The field `D` is the word's value modulo 256 (R41). -/
theorem dataField_toNat (w : Word) : (dataField w).toNat = w.toNat % 256 := by
  simp [dataField]

/-- R70's three conditions on a word, in the arithmetic of its value. -/
def IllegalWord (w : Word) : Prop :=
  w.toNat / 4096 ≠ 0 ∨
    (w.toNat / 256 % 16) ∈ [0x0, 0x6, 0x7, 0x8, 0xD, 0xE, 0xF] ∨
    (w.toNat % 256 ≠ 0 ∧ (w.toNat / 256 % 16) ∉ [0x2, 0xA])

/-- The decoder rejects exactly the words of R70. -/
theorem decode_error_iff (w : Word) : (∃ e, decode w = .error e) ↔ IllegalWord w := by
  have hrsv : rsvField w = 0#4 ↔ w.toNat / 4096 = 0 := by
    rw [← rsvField_toNat]
    exact BitVec.toNat_inj.symm
  unfold decode IllegalWord
  split
  next hzero =>
    rw [decodeOpcode_error_iff, opField_toNat, dataField_toNat]
    simp only [hrsv.mp hzero, ne_eq, not_true_eq_false, false_or]
  next hne => exact iff_of_true ⟨_, rfl⟩ (.inl (mt hrsv.mpr hne))

/-- The answer of a command is no `ERR` (R47, R71). -/
theorem Response.isErr_of_answers {i : Instr} {r : Response} (h : r.answers i) : r.isErr = false := by
  unfold Response.answers at h
  split at h
  · obtain ⟨v, rfl⟩ := h
    rfl
  · exact h ▸ rfl

/-- A step adds an `ERR` exactly for an illegal word at the head of the channel, with the one cause code
and that word (R70). -/
theorem step_adds_err_iff {s t : State} (h : step s = .next t) (code : Byte) (cmd : Word) :
    t.responses = s.responses ++ [.err code cmd] ↔
      code = illegalCommandCode ∧ (∃ e, decode cmd = .error e) ∧
        ∃ rest, s.pending = .command cmd :: rest := by
  obtain ⟨hidle, rfl⟩ | ⟨input, rest, hpending, hserved⟩ := step_cases h
  · exact iff_of_false (by simp) (by simp [hidle])
  · obtain ⟨rfl, rfl⟩ | ⟨w, rfl, -, ⟨i, hdecode, hexec⟩ | ⟨⟨e, hdecode⟩, rfl⟩⟩ := hserved
    · exact iff_of_false (by simp) (by simp [hpending])
    · obtain ⟨r, hresponses, hanswers⟩ := exec_responds hexec
      have hr : r ≠ .err code cmd := fun hr => by
        cases hr ▸ Response.isErr_of_answers hanswers
      refine iff_of_false (by simpa [hresponses] using hr) ?_
      rintro ⟨-, ⟨e, herror⟩, rest', hcmd⟩
      cases hpending.symm.trans hcmd
      cases hdecode.symm.trans herror
    · suffices illegalCommandCode = code ∧ w = cmd ↔
          code = illegalCommandCode ∧ (∃ e, decode cmd = .error e) ∧ w = cmd by
        simpa [hpending] using this
      constructor
      · rintro ⟨rfl, rfl⟩
        exact ⟨rfl, ⟨e, hdecode⟩, rfl⟩
      · rintro ⟨rfl, -, rfl⟩
        exact ⟨rfl, rfl⟩

/-- Settles O8: the decoder's refusals are R70's words, only they give an `ERR`, and the step that takes
the exception writes no register. -/
theorem illegalCommandIsTheOnlyException : Obligations.IllegalCommandIsTheOnlyException := by
  refine ⟨decode_error_iff, fun s t hready hstep code cmd => ⟨?_, fun herr => ?_⟩⟩
  · exact (step_adds_err_iff hstep code cmd).trans <|
      and_congr_right' (and_congr_left' (decode_error_iff cmd))
  · obtain ⟨-, ⟨e, hdecode⟩, rest, hpending⟩ := (step_adds_err_iff hstep code cmd).mp herr
    cases hstep.symm.trans (step_of_decode_error hready hpending hdecode)
    exact ⟨rfl, rfl, rfl⟩

/-- A command never sets or clears the `ERR` mark (R71, D18). -/
theorem exec_keeps_errMark {i : Instr} {s t : State} (h : exec i s = .next t) :
    t.errMark = s.errMark := by
  obtain ⟨-, v, rfl⟩ | ⟨-, a, c, rfl⟩ | ⟨-, v, rfl⟩ := exec_cases h
  · rfl
  · rfl
  · rfl

/-- A command on any state completes with one answer that is no `ERR`, and leaves the mark (R71). -/
theorem exec_raises_nothing (i : Instr) (s : State) :
    ∃ t r, exec i s = .next t ∧ t.responses = s.responses ++ [r] ∧ r.isErr = false ∧
      t.errMark = s.errMark := by
  obtain ⟨t, hexec⟩ := exec_completes i s
  obtain ⟨r, hresponses, hanswers⟩ := exec_responds hexec
  exact ⟨t, r, hexec, hresponses, Response.isErr_of_answers hanswers, exec_keeps_errMark hexec⟩

/-- A command on a ready, idle block leaves it ready and idle (R83). -/
theorem exec_keeps_ready_idle {i : Instr} {s t : State} (h : exec i s = .next t) (hready : s.ready)
    (hidle : s.pending = []) : t.ready ∧ t.pending = [] := by
  obtain ⟨hpending, hseen⟩ := exec_keeps_channel h
  exact ⟨hseen.trans hready, hpending.trans hidle⟩

/-- Settles O26: by induction on the commands, each of which adds its one answer. -/
theorem legalCommandsRaiseNothing : Obligations.LegalCommandsRaiseNothing := by
  refine ⟨exec_raises_nothing, fun is => ?_⟩
  induction is with
  | nil =>
    intro s _ hidle
    exact ⟨s, [], runCommands_nil hidle, hidle, (List.append_nil _).symm, rfl, by simp, rfl⟩
  | cons i is ih =>
    intro s hready hidle
    obtain ⟨s1, r, hexec, hresponse, hr, hmark1⟩ := exec_raises_nothing i s
    obtain ⟨hready1, hidle1⟩ := exec_keeps_ready_idle hexec hready hidle
    obtain ⟨t, rs, hrun, htidle, hresponses, hlength, hrs, hmark⟩ := ih s1 hready1 hidle1
    refine ⟨t, r :: rs, (runCommands_cons hready hidle hexec).trans hrun, htidle, ?_,
      congrArg (· + 1) hlength, List.forall_mem_cons.mpr ⟨hr, hrs⟩, hmark.trans hmark1⟩
    rw [hresponses, hresponse, List.append_assoc, List.singleton_append]

end Sys2Proof.Machine
end

section
/-! Reads inside a run (spec/60_exceptions.md R79): what commands write depends on the registers alone,
and a read leaves them. -/

namespace Sys2Proof.Machine

/-- The three registers of two states agree; their channels and records may differ. -/
def SameRegisters (s t : State) : Prop := s.acc = t.acc ∧ s.carry = t.carry ∧ s.crc = t.crc

/-- A read leaves the registers (R38), so agreement stays when only one of two blocks reads. -/
theorem exec_read_sameRegisters {i : Instr} (hread : i.isRead = true) {s u : State}
    (h : SameRegisters s u) : ∃ t, exec i s = .next t ∧ SameRegisters t u := by
  obtain ⟨answer, hform⟩ := exec_read_form hread
  exact ⟨_, hform s, h⟩

/-- One command on two blocks whose registers agree leaves them in agreement (R79). -/
theorem exec_sameRegisters (i : Instr) {s u : State} (h : SameRegisters s u) :
    ∃ t v, exec i s = .next t ∧ exec i u = .next v ∧ SameRegisters t v := by
  obtain ⟨hacc, hcarry, hcrc⟩ := h
  cases hunit : i.isSignature with
  | false =>
    obtain ⟨r, a, c, hform⟩ := exec_checksum_form hunit
    exact ⟨_, _, hform s, hform u, congrArg₂ a hacc hcarry, congrArg₂ c hacc hcarry, hcrc⟩
  | true =>
    obtain ⟨r, v, hform⟩ := exec_signature_form hunit
    exact ⟨_, _, hform s, hform u, hacc, hcarry, congrArg v hcrc⟩

/-- A run, and the same run without its reads on a block whose registers agree, end in agreement
(R79). -/
theorem runCommands_filter_sameRegisters (is : List Instr) {s u : State} (hs : s.ready)
    (hsidle : s.pending = []) (hu : u.ready) (huidle : u.pending = []) (h : SameRegisters s u) :
    ∃ t v, runCommands is s = .next t ∧ runCommands (is.filter fun i => !i.isRead) u = .next v ∧
      SameRegisters t v := by
  induction is generalizing s u with
  | nil => exact ⟨s, u, runCommands_nil hsidle, runCommands_nil huidle, h⟩
  | cons i is ih =>
    cases hread : i.isRead with
    | true =>
      obtain ⟨s1, hexec, h1⟩ := exec_read_sameRegisters hread h
      obtain ⟨hs1, hs1idle⟩ := exec_keeps_ready_idle hexec hs hsidle
      rw [runCommands_cons hs hsidle hexec, List.filter_cons_of_neg (by simp [hread])]
      exact ih hs1 hs1idle hu huidle h1
    | false =>
      obtain ⟨s1, u1, hexecs, hexecu, h1⟩ := exec_sameRegisters i h
      obtain ⟨hs1, hs1idle⟩ := exec_keeps_ready_idle hexecs hs hsidle
      obtain ⟨hu1, hu1idle⟩ := exec_keeps_ready_idle hexecu hu huidle
      rw [runCommands_cons hs hsidle hexecs, List.filter_cons_of_pos (by simp [hread]),
        runCommands_cons hu huidle hexecu]
      exact ih hs1 hs1idle hu1 hu1idle h1

/-- Settles O30: both runs begin on the same block, whose registers agree with themselves. -/
theorem traceReadsDoNotDisturb : Obligations.TraceReadsDoNotDisturb := by
  intro is s hready hidle
  exact runCommands_filter_sameRegisters is hready hidle hready hidle ⟨rfl, rfl, rfl⟩

end Sys2Proof.Machine
end

section
/-! Reset (spec/70_reset_and_hazards.md R81, R82): the reset input, and commands before the first one. -/

namespace Sys2Proof.Machine

/-- Before the first reset a command is refused by name (R82). -/
theorem serveInput_command_of_not_resetSeen {s : State} (cmd : Word) (h : s.resetSeen = false) :
    serveInput (.command cmd) s = .refused .commandBeforeReset :=
  if_neg (Bool.eq_false_iff.mp h)

/-- The first reset leaves nothing of the power-up values (R27, R82). -/
theorem takeReset_powerUp : takeReset State.powerUp = State.reset := rfl

/-- Settles O12: a pending reset is served whether or not an earlier one was seen. -/
theorem resetInputResetsBothUnits : Obligations.ResetInputResetsBothUnits := by
  intro s rest hpending
  calc step s
      = serveInput .reset (withPending rest s) := step_of_pending_cons hpending
    _ = .next (takeReset (withPending rest s)) := rfl

/-- Settles O13: the refusal is the step's own, and the reset overwrites all three registers. -/
theorem commandBeforeResetIsRefused : Obligations.CommandBeforeResetIsRefused := by
  refine ⟨fun s w rest hseen hpending => ?_, State.powerUp_resetSeen, fun rest => ?_⟩
  · calc step s
        = serveInput (.command w) (withPending rest s) := step_of_pending_cons hpending
      _ = .refused .commandBeforeReset := serveInput_command_of_not_resetSeen w hseen
  · calc step (withPending (.reset :: rest) State.powerUp)
        = serveInput .reset (withPending rest State.powerUp) := step_of_pending_cons rfl
      _ = .next (withPending rest State.reset) :=
          serveInput_withPending rest (congrArg Host.Outcome.next takeReset_powerUp)

end Sys2Proof.Machine
end

section
/-! One unit's registers in two runs (spec/10_state.md R25): what each input does to them depends on
them alone, whatever the other unit, the channel and the record hold. -/

namespace Sys2Proof.Machine

/-- An input is a reset, a command's word, or a word the decoder rejects (R13, R46). -/
theorem hostInput_cases (input : HostInput) :
    input = .reset ∨ (∃ i, input = .command (encode i)) ∨
      ∃ cmd e, input = .command cmd ∧ decode cmd = .error e := by
  cases input with
  | reset => exact .inl rfl
  | command cmd =>
    cases hdecode : decode cmd with
    | ok i => exact .inr (.inl ⟨i, decode_eq_ok_iff.mp hdecode ▸ rfl⟩)
    | error e => exact .inr (.inr ⟨cmd, e, rfl, hdecode⟩)

/-- The reset input is taken on every block (R81). -/
theorem serveInput_reset (s : State) : serveInput .reset s = .next (takeReset s) := rfl

/-- A ready block performs the command of a command's word (R73). -/
theorem serveInput_encode (i : Instr) {s : State} (h : s.ready) :
    serveInput (.command (encode i)) s = exec i s :=
  (serveInput_command_of_ready _ h).trans (runCommand_of_decode_ok s (decode_encode i))

/-- A ready block takes the exception of an illegal word (R70, R73). -/
theorem serveInput_illegal {cmd : Word} {e : IllegalReason} {s : State} (h : s.ready)
    (hdecode : decode cmd = .error e) :
    serveInput (.command cmd) s = .next (takeIllegalCommand cmd s) :=
  (serveInput_command_of_ready cmd h).trans (runCommand_of_decode_error s hdecode)

/-- A completed run began by serving its first input, and the rest of it is a run from there (R39). -/
theorem run_cons_eq_next {input : HostInput} {inputs : List HostInput} {s t : State}
    (hready : s.ready) (hidle : s.pending = []) (h : run (input :: inputs) s = .next t) :
    ∃ s1, serveInput input s = .next s1 ∧ s1.ready ∧ s1.pending = [] ∧ run inputs s1 = .next t := by
  obtain ⟨s1, hserve⟩ := serveInput_completes input hready
  obtain ⟨hpending, hready1⟩ := serveInput_keeps_channel hserve
  exact ⟨s1, hserve, hready1, hpending.trans hidle, (run_cons hidle hserve).symm.trans h⟩

/-- The registers of one unit agree in two states: the signature unit's for `true`, the checksum unit's
for `false`, as `Instr.isSignature` names the units. -/
def SameUnit : Bool → State → State → Prop
  | true, s, u => s.crc = u.crc
  | false, s, u => s.acc = u.acc ∧ s.carry = u.carry

theorem SameUnit.refl (unit : Bool) (s : State) : SameUnit unit s s := by
  cases unit with
  | true => exact rfl
  | false => exact ⟨rfl, rfl⟩

theorem SameUnit.symm {unit : Bool} {s u : State} (h : SameUnit unit s u) : SameUnit unit u s := by
  cases unit with
  | true => exact Eq.symm h
  | false => exact ⟨h.1.symm, h.2.symm⟩

theorem SameUnit.trans {unit : Bool} {s t u : State} (h : SameUnit unit s t)
    (h' : SameUnit unit t u) : SameUnit unit s u := by
  cases unit with
  | true => exact Eq.trans h h'
  | false => exact ⟨h.1.trans h'.1, h.2.trans h'.2⟩

/-- A reset sets a unit's registers to constants (R81). -/
theorem SameUnit.takeReset (unit : Bool) (s u : State) :
    SameUnit unit (takeReset s) (takeReset u) := by
  cases unit with
  | true => exact rfl
  | false => exact ⟨rfl, rfl⟩

/-- A command's writes and its answer are a function of its own unit's registers (R25). -/
theorem exec_ownUnit {i : Instr} {s u t v : State} (h : SameUnit i.isSignature s u)
    (hs : exec i s = .next t) (hu : exec i u = .next v) :
    SameUnit i.isSignature t v ∧
      ∃ r, t.responses = s.responses ++ [r] ∧ v.responses = u.responses ++ [r] := by
  cases hunit : i.isSignature with
  | false =>
    rw [hunit] at h
    obtain ⟨hacc, hcarry⟩ := h
    obtain ⟨r, a, c, hform⟩ := exec_checksum_form hunit
    cases (hform s).symm.trans hs
    cases (hform u).symm.trans hu
    exact ⟨⟨congrArg₂ a hacc hcarry, congrArg₂ c hacc hcarry⟩, r s.acc s.carry, rfl,
      congrArg₂ (fun acc carry => u.responses ++ [r acc carry]) hacc.symm hcarry.symm⟩
  | true =>
    rw [hunit] at h
    obtain ⟨r, f, hform⟩ := exec_signature_form hunit
    cases (hform s).symm.trans hs
    cases (hform u).symm.trans hu
    exact ⟨congrArg f h, r s.crc, rfl, congrArg (fun crc => u.responses ++ [r crc]) (Eq.symm h)⟩

/-- A command leaves the registers of the other unit (R25). -/
theorem exec_otherUnit {i : Instr} {unit : Bool} {s t : State} (hunit : i.isSignature ≠ unit)
    (h : exec i s = .next t) : SameUnit unit t s := by
  cases unit with
  | true =>
    obtain ⟨r, a, c, hform⟩ := exec_checksum_form (Bool.eq_false_iff.mpr hunit)
    cases (hform s).symm.trans h
    exact rfl
  | false =>
    obtain ⟨r, f, hform⟩ := exec_signature_form (Bool.eq_true_of_not_eq_false hunit)
    cases (hform s).symm.trans h
    exact ⟨rfl, rfl⟩

/-- One command on two blocks that agree in a unit leaves them in agreement there (R25). -/
theorem exec_sameUnit {i : Instr} {unit : Bool} {s u t v : State} (h : SameUnit unit s u)
    (hs : exec i s = .next t) (hu : exec i u = .next v) : SameUnit unit t v := by
  by_cases hunit : i.isSignature = unit
  · subst hunit
    exact (exec_ownUnit h hs hu).1
  · exact (exec_otherUnit hunit hs).trans (h.trans (exec_otherUnit hunit hu).symm)

/-- One input on two ready blocks that agree in a unit leaves them in agreement there. -/
theorem serveInput_sameUnit {input : HostInput} {unit : Bool} {s u t v : State} (hsready : s.ready)
    (huready : u.ready) (h : SameUnit unit s u) (hs : serveInput input s = .next t)
    (hu : serveInput input u = .next v) : SameUnit unit t v := by
  obtain rfl | ⟨i, rfl⟩ | ⟨cmd, e, rfl, hdecode⟩ := hostInput_cases input
  · cases hs
    cases hu
    exact SameUnit.takeReset unit s u
  · rw [serveInput_encode i hsready] at hs
    rw [serveInput_encode i huready] at hu
    exact exec_sameUnit h hs hu
  · cases (serveInput_illegal hsready hdecode).symm.trans hs
    cases (serveInput_illegal huready hdecode).symm.trans hu
    cases unit with
    | true => exact h
    | false => exact h

/-- The same inputs on two blocks that agree in a unit leave them in agreement there: what a unit ends
with is a function of what it began with and of the inputs (R25). -/
theorem run_sameUnit {inputs : List HostInput} {unit : Bool} {s u t v : State}
    (hs : run inputs s = .next t) (hu : run inputs u = .next v) (hsready : s.ready)
    (hsidle : s.pending = []) (huready : u.ready) (huidle : u.pending = [])
    (h : SameUnit unit s u) : SameUnit unit t v := by
  induction inputs generalizing s u with
  | nil =>
    cases (run_nil hsidle).symm.trans hs
    cases (run_nil huidle).symm.trans hu
    exact h
  | cons input inputs ih =>
    obtain ⟨s1, hserves, hs1, hs1idle, hruns⟩ := run_cons_eq_next hsready hsidle hs
    obtain ⟨u1, hserveu, hu1, hu1idle, hrunu⟩ := run_cons_eq_next huready huidle hu
    exact ih hruns hrunu hs1 hs1idle hu1 hu1idle
      (serveInput_sameUnit hsready huready h hserves hserveu)

/-- Every run on a ready, idle block completes (R94). -/
theorem run_completes (inputs : List HostInput) {s : State} (hready : s.ready)
    (hidle : s.pending = []) : ∃ t, run inputs s = .next t := by
  obtain ⟨t, hrun, -⟩ := run_append inputs hready hidle
  exact ⟨t, hrun⟩

end Sys2Proof.Machine
end

section
/-! Interrupted folds and folds without their initialising command (spec/70_reset_and_hazards.md R84,
R92). -/

namespace Sys2Proof.Machine

/-- Settles O14: with `m` the block after the earlier inputs, the reset and `CKCLR` or `CRCINIT` leave
the units they write as they are after reset and any other unit as in `m`, and the later inputs keep the
agreement. -/
theorem interruptedFoldStartsAfresh : Obligations.InterruptedFoldStartsAfresh := by
  intro before after s hready hidle
  obtain ⟨m, -, hmready, hmidle, happend⟩ := run_append before hready hidle
  obtain ⟨fresh, hfresh⟩ := run_completes after (s := State.reset) rfl rfl
  obtain ⟨whole, hwhole⟩ := run_completes after hmready hmidle
  obtain ⟨rst, hrst⟩ := run_completes after (s := takeReset m) rfl hmidle
  obtain ⟨ck, hck⟩ := run_completes after
    (s := respond .none (writeChecksum ckAccInit ckCarryInit m)) hmready hmidle
  obtain ⟨sg, hsg⟩ := run_completes after (s := respond .none (writeCrc crcInit m)) hmready hmidle
  obtain ⟨hrstAcc, hrstCarry⟩ :=
    run_sameUnit (unit := false) hrst hfresh rfl hmidle rfl rfl ⟨rfl, rfl⟩
  have hrstCrc := run_sameUnit (unit := true) hrst hfresh rfl hmidle rfl rfl rfl
  obtain ⟨hckAcc, hckCarry⟩ :=
    run_sameUnit (unit := false) hck hfresh hmready hmidle rfl rfl ⟨rfl, rfl⟩
  have hckCrc := run_sameUnit (unit := true) hck hwhole hmready hmidle hmready hmidle rfl
  obtain ⟨hsgAcc, hsgCarry⟩ :=
    run_sameUnit (unit := false) hsg hwhole hmready hmidle hmready hmidle ⟨rfl, rfl⟩
  have hsgCrc := run_sameUnit (unit := true) hsg hfresh hmready hmidle rfl rfl rfl
  refine ⟨fresh, whole, rst, ck, sg, hfresh, (happend _).trans hwhole, ?_, hrstAcc, hrstCarry,
    hrstCrc, ?_, hckAcc, hckCarry, hckCrc, ?_, hsgAcc, hsgCarry, hsgCrc⟩
  · exact (happend _).trans ((run_cons hmidle (serveInput_reset m)).trans hrst)
  · exact (happend _).trans ((run_cons hmidle (serveInput_encode .ckclr hmready)).trans hck)
  · exact (happend _).trans ((run_cons hmidle (serveInput_encode .crcinit hmready)).trans hsg)

/-- A command that leaves a unit's registers as they are may be left out before further commands: the
unit ends the same (R84). -/
theorem runCommands_cons_sameUnit {i : Instr} (is : List Instr) {unit : Bool} {s s1 : State}
    (hready : s.ready) (hidle : s.pending = []) (hexec : exec i s = .next s1)
    (h : SameUnit unit s s1) :
    ∃ t u, runCommands is s = .next t ∧ runCommands (i :: is) s = .next u ∧ SameUnit unit t u := by
  obtain ⟨hready1, hidle1⟩ := exec_keeps_ready_idle hexec hready hidle
  obtain ⟨t, ht⟩ := run_completes (commandInputs is) hready hidle
  obtain ⟨u, hu⟩ := run_completes (commandInputs is) hready1 hidle1
  exact ⟨t, u, ht, (runCommands_cons hready hidle hexec).trans hu,
    run_sameUnit ht hu hready hidle hready1 hidle1 h⟩

/-- Commands after which any others run from `t`, alone end in `t`. -/
theorem runCommands_of_append {a : List Instr} {s t : State} (hidle : t.pending = [])
    (h : ∀ is, runCommands (a ++ is) s = runCommands is t) : runCommands a s = .next t :=
  (List.append_nil a ▸ h []).trans (runCommands_nil hidle)

/-- Settles O37: the folds run the printed loops from the registers' values, and after reset the
initialising command leaves those of its unit as they are. -/
theorem foldWithoutInitContinues : Obligations.FoldWithoutInitContinues := by
  refine ⟨fun bytes s hready hidle => ?_, fun bytes => ?_⟩
  · obtain ⟨t, ht, hck⟩ := runCommands_map_ckadc bytes hready hidle
    obtain ⟨u, hu, hsg⟩ := runCommands_map_crcbyte bytes hready hidle
    exact ⟨t, u, runCommands_of_append ht.idle hck, ht.sums_eq, runCommands_of_append hu.idle hsg,
      hu.crc_eq⟩
  · obtain ⟨t, t', ht, ht', hacc, hcarry⟩ := runCommands_cons_sameUnit (unit := false)
      (bytes.reverse.map .ckadc) rfl rfl (exec_ckclr State.reset) ⟨rfl, rfl⟩
    obtain ⟨u, u', hu, hu', hcrc⟩ := runCommands_cons_sameUnit (unit := true)
      (bytes.map .crcbyte) rfl rfl (exec_crcinit State.reset) rfl
    exact ⟨t, t', u, u', ht, ht', hacc, hcarry, hu, hu', hcrc⟩

end Sys2Proof.Machine
end

section
/-! Interleaving (spec/70_reset_and_hazards.md R89): a run against the run of one unit's commands. -/

namespace Sys2Proof.Machine

/-- A run, and the run of one unit's commands alone on a block that agrees in that unit, end in
agreement there, and the second gives the answers that unit gives in the first (R89). -/
theorem runCommands_unit (unit : Bool) (is : List Instr) {s u : State} (hsready : s.ready)
    (hsidle : s.pending = []) (huready : u.ready) (huidle : u.pending = []) (h : SameUnit unit s u) :
    ∃ t v rs, runCommands is s = .next t ∧
      runCommands (is.filter fun i => i.isSignature == unit) u = .next v ∧ SameUnit unit t v ∧
      rs.length = is.length ∧ t.responses = s.responses ++ rs ∧
      v.responses =
        u.responses ++ ((is.zip rs).filter fun p => p.1.isSignature == unit).map Prod.snd := by
  induction is generalizing s u with
  | nil =>
    exact ⟨s, u, [], runCommands_nil hsidle, runCommands_nil huidle, h, rfl,
      (List.append_nil _).symm, (List.append_nil _).symm⟩
  | cons i is ih =>
    obtain ⟨s1, hexecs⟩ := exec_completes i s
    obtain ⟨hs1, hs1idle⟩ := exec_keeps_ready_idle hexecs hsready hsidle
    rw [runCommands_cons hsready hsidle hexecs]
    by_cases hunit : i.isSignature = unit
    · subst hunit
      obtain ⟨u1, hexecu⟩ := exec_completes i u
      obtain ⟨hu1, hu1idle⟩ := exec_keeps_ready_idle hexecu huready huidle
      obtain ⟨h1, r, hsr, hur⟩ := exec_ownUnit h hexecs hexecu
      obtain ⟨t, v, rs, hrun, hrunUnit, hunits, hlength, ht, hv⟩ := ih hs1 hs1idle hu1 hu1idle h1
      rw [List.filter_cons_of_pos (by simp), runCommands_cons huready huidle hexecu]
      refine ⟨t, v, r :: rs, hrun, hrunUnit, hunits, congrArg (· + 1) hlength, ?_, ?_⟩
      · rw [ht, hsr, List.append_assoc, List.singleton_append]
      · rw [hv, hur, List.append_assoc, List.singleton_append, List.zip_cons_cons,
          List.filter_cons_of_pos (by simp), List.map_cons]
    · obtain ⟨r, hsr, -⟩ := exec_responds hexecs
      obtain ⟨t, v, rs, hrun, hrunUnit, hunits, hlength, ht, hv⟩ :=
        ih hs1 hs1idle huready huidle ((exec_otherUnit hunit hexecs).trans h)
      rw [List.filter_cons_of_neg (by simpa using hunit)]
      refine ⟨t, v, r :: rs, hrun, hrunUnit, hunits, congrArg (· + 1) hlength, ?_, ?_⟩
      · rw [ht, hsr, List.append_assoc, List.singleton_append]
      · rw [hv, List.zip_cons_cons, List.filter_cons_of_neg (by simpa using hunit)]

/-- Settles O33: each unit's run is compared with the whole one, and the whole one has only one end and
one list of answers. -/
theorem interleavingIsUnitByUnit : Obligations.InterleavingIsUnitByUnit := by
  intro is s hready hidle
  obtain ⟨t, ck, rs, hrun, hckrun, ⟨hacc, hcarry⟩, hlength, ht, hck⟩ :=
    runCommands_unit false is hready hidle hready hidle (SameUnit.refl _ s)
  obtain ⟨t', sg, rs', hrun', hsgrun, hcrc, -, ht', hsg⟩ :=
    runCommands_unit true is hready hidle hready hidle (SameUnit.refl _ s)
  cases hrun.symm.trans hrun'
  cases List.append_cancel_left (ht.symm.trans ht')
  simp only [beq_false] at hckrun hck
  simp only [beq_true] at hsgrun hsg
  exact ⟨t, ck, sg, rs, _, _, hrun, hckrun, hsgrun, hacc, hcarry, hcrc, ht, hck, hsg, hlength,
    rfl, rfl⟩

end Sys2Proof.Machine
end

section
/-! The record of a run (spec/70_reset_and_hazards.md R94, log 4): the answers the inputs of a run add to
it, and the `ERR` mark (R74, D18). -/

namespace Sys2Proof.Machine

/-- The answers `rs` are of the kinds that inputs call for: one for each command word (R47), with an
`ERR` among them exactly if a word is illegal (R70). -/
structure AnswersTo (inputs : List HostInput) (rs : List Response) : Prop where
  length_eq : rs.length = (inputs.filter fun x => decide (x ≠ .reset)).length
  any_isErr_iff : rs.any Response.isErr = true ↔
    ∃ w e, HostInput.command w ∈ inputs ∧ decode w = .error e

theorem AnswersTo.nil : AnswersTo [] [] := ⟨rfl, by simp⟩

/-- A reset is not answered (R81). -/
theorem AnswersTo.reset : AnswersTo [.reset] [] := ⟨rfl, by simp⟩

/-- A command's answer is no `ERR` (R71). -/
theorem AnswersTo.encode {i : Instr} {r : Response} (h : r.answers i) :
    AnswersTo [.command (encode i)] [r] := by
  refine ⟨rfl, iff_of_false (by simp [Response.isErr_of_answers h]) ?_⟩
  rintro ⟨w, e, hw, hdecode⟩
  cases List.mem_singleton.mp hw
  cases (decode_encode i).symm.trans hdecode

/-- An illegal word's answer is an `ERR` (R70). -/
theorem AnswersTo.illegal {cmd : Word} {e : IllegalReason} (h : decode cmd = .error e) :
    AnswersTo [.command cmd] [.err illegalCommandCode cmd] :=
  ⟨rfl, iff_of_true rfl ⟨cmd, e, List.mem_singleton_self _, h⟩⟩

theorem AnswersTo.append {a b : List HostInput} {rs qs : List Response} (ha : AnswersTo a rs)
    (hb : AnswersTo b qs) : AnswersTo (a ++ b) (rs ++ qs) := by
  refine ⟨?_, ?_⟩
  · rw [List.length_append, List.filter_append, List.length_append, ha.length_eq, hb.length_eq]
  · rw [List.any_append, Bool.or_eq_true, ha.any_isErr_iff, hb.any_isErr_iff]
    simp only [List.mem_append, or_and_right, exists_or]

/-- Going from `s` to `t` the block has added `rs` to its record, and set the mark if there is an `ERR`
among them (log 4). -/
structure Records (rs : List Response) (s t : State) : Prop where
  responses_eq : t.responses = s.responses ++ rs
  errMark_eq : t.errMark = (s.errMark || rs.any Response.isErr)

theorem Records.refl (s : State) : Records [] s s :=
  ⟨(List.append_nil _).symm, (Bool.or_false _).symm⟩

theorem Records.trans {rs qs : List Response} {s t u : State} (h : Records rs s t)
    (h' : Records qs t u) : Records (rs ++ qs) s u :=
  ⟨by rw [h'.responses_eq, h.responses_eq, List.append_assoc],
    by rw [h'.errMark_eq, h.errMark_eq, List.any_append, Bool.or_assoc]⟩

/-- A command adds its answer, and leaves the mark (R71). -/
theorem Records.exec {i : Instr} {r : Response} {s t : State} (h : exec i s = .next t)
    (hanswers : r.answers i) (hresponses : t.responses = s.responses ++ [r]) : Records [r] s t :=
  ⟨hresponses, by
    simp [exec_keeps_errMark h, Response.isErr_of_answers hanswers]⟩

/-- A reset leaves the record and the mark (log 4). -/
theorem Records.takeReset (s : State) : Records [] s (takeReset s) :=
  ⟨(List.append_nil _).symm, (Bool.or_false _).symm⟩

/-- An illegal word adds its `ERR` and sets the mark (R70, D18). -/
theorem Records.takeIllegalCommand (cmd : Word) (s : State) :
    Records [.err illegalCommandCode cmd] s (takeIllegalCommand cmd s) :=
  ⟨rfl, (Bool.or_true _).symm⟩

/-- One input on two ready blocks whose registers agree adds the same answers to both records: no input
reads the record. -/
theorem serveInput_answers {input : HostInput} {s u t v : State} (hsready : s.ready)
    (huready : u.ready) (h : ∀ unit, SameUnit unit s u) (hs : serveInput input s = .next t)
    (hu : serveInput input u = .next v) :
    ∃ rs, AnswersTo [input] rs ∧ Records rs s t ∧ Records rs u v := by
  obtain rfl | ⟨i, rfl⟩ | ⟨cmd, e, rfl, hdecode⟩ := hostInput_cases input
  · cases hs
    cases hu
    exact ⟨[], AnswersTo.reset, Records.takeReset _, Records.takeReset _⟩
  · rw [serveInput_encode i hsready] at hs
    rw [serveInput_encode i huready] at hu
    obtain ⟨-, r, hsr, hur⟩ := exec_ownUnit (h i.isSignature) hs hu
    obtain ⟨r', hsr', hanswers⟩ := exec_responds hs
    cases List.append_cancel_left (hsr.symm.trans hsr')
    exact ⟨[r], AnswersTo.encode hanswers, Records.exec hs hanswers hsr,
      Records.exec hu hanswers hur⟩
  · cases (serveInput_illegal hsready hdecode).symm.trans hs
    cases (serveInput_illegal huready hdecode).symm.trans hu
    exact ⟨_, AnswersTo.illegal hdecode, Records.takeIllegalCommand cmd s,
      Records.takeIllegalCommand cmd u⟩

/-- The same inputs on two blocks whose registers agree add the same answers to both records. -/
theorem run_answers {inputs : List HostInput} {s u t v : State} (hs : run inputs s = .next t)
    (hu : run inputs u = .next v) (hsready : s.ready) (hsidle : s.pending = []) (huready : u.ready)
    (huidle : u.pending = []) (h : ∀ unit, SameUnit unit s u) :
    ∃ rs, AnswersTo inputs rs ∧ Records rs s t ∧ Records rs u v := by
  induction inputs generalizing s u with
  | nil =>
    cases (run_nil hsidle).symm.trans hs
    cases (run_nil huidle).symm.trans hu
    exact ⟨[], AnswersTo.nil, Records.refl _, Records.refl _⟩
  | cons input inputs ih =>
    obtain ⟨s1, hserves, hs1, hs1idle, hruns⟩ := run_cons_eq_next hsready hsidle hs
    obtain ⟨u1, hserveu, hu1, hu1idle, hrunu⟩ := run_cons_eq_next huready huidle hu
    obtain ⟨qs, hqs, hsqs, huqs⟩ := serveInput_answers hsready huready h hserves hserveu
    obtain ⟨rs, hrs, hsrs, hurs⟩ := ih hruns hrunu hs1 hs1idle hu1 hu1idle fun unit =>
      serveInput_sameUnit hsready huready (h unit) hserves hserveu
    exact ⟨qs ++ rs, hqs.append hrs, hsqs.trans hsrs, huqs.trans hurs⟩

/-- A run adds the answers to its inputs to the record (R94). -/
theorem run_records {inputs : List HostInput} {s t : State} (h : run inputs s = .next t)
    (hready : s.ready) (hidle : s.pending = []) : ∃ rs, AnswersTo inputs rs ∧ Records rs s t := by
  obtain ⟨rs, hanswers, hrecords, -⟩ :=
    run_answers h h hready hidle hready hidle fun unit => SameUnit.refl unit s
  exact ⟨rs, hanswers, hrecords⟩

/-- A whole run goes on after its first input as from the state after reset (R82). -/
theorem runFromPowerUp_eq (inputs : List HostInput) :
    runFromPowerUp inputs = run inputs State.reset :=
  run_cons rfl (congrArg Host.Outcome.next takeReset_powerUp)

/-- Settles O32: the record and the mark are those of the answers to the inputs, and from the state
after reset there is nothing else in them. -/
theorem runsEndWithOneResponsePerCommand : Obligations.RunsEndWithOneResponsePerCommand := by
  refine ⟨fun inputs s hready hidle => ?_, fun inputs => ?_⟩
  · obtain ⟨t, hrun, htready, htidle, -⟩ := run_append inputs hready hidle
    obtain ⟨rs, hanswers, hrecords⟩ := run_records hrun hready hidle
    refine ⟨t, hrun, htidle, htready, ?_, ?_⟩
    · rw [hrecords.responses_eq, List.length_append, hanswers.length_eq]
    · rw [hrecords.errMark_eq, Bool.or_eq_true, hanswers.any_isErr_iff]
  · obtain ⟨t, hrun⟩ := run_completes inputs (s := State.reset) rfl rfl
    obtain ⟨rs, hanswers, hrecords⟩ := run_records hrun rfl rfl
    have hresponses : t.responses = rs := hrecords.responses_eq
    have hmark : t.errMark = rs.any Response.isErr := hrecords.errMark_eq
    refine ⟨t, t, (runFromPowerUp_eq inputs).trans hrun, hrun, rfl, ?_, ?_⟩
    · exact (congrArg List.length hresponses).trans hanswers.length_eq
    · exact hmark.trans (congrArg (List.any · Response.isErr) hresponses.symm)

end Sys2Proof.Machine
end

section
/-! Split reads (spec/70_reset_and_hazards.md R91): inputs between `CRCLO` and `CRCHI`. -/

namespace Sys2Proof.Machine

/-- The two reads of the signature with inputs between them. -/
def splitRead (between : List HostInput) : List HostInput :=
  .command (encode .crclo) :: between ++ [.command (encode .crchi)]

/-- Giving a response leaves the registers of both units. -/
theorem SameUnit.respond (unit : Bool) (r : Response) (s : State) :
    SameUnit unit s (respond r s) := by
  cases unit with
  | true => exact rfl
  | false => exact ⟨rfl, rfl⟩

/-- The first read takes its answer before the inputs between and the second after them: each answers
the register as it is then (R91). -/
theorem run_splitRead {between : List HostInput} {s m : State} (hready : s.ready)
    (hidle : s.pending = []) (hbetween : run between s = .next m) :
    ∃ t mid, run (splitRead between) s = .next t ∧ m.responses = s.responses ++ mid ∧
      t.crc = m.crc ∧
      t.responses = s.responses ++ [.data (crcLowByte s.crc)] ++ mid ++
        [.data (crcHighByte m.crc)] := by
  obtain ⟨n, hn, hnready, hnidle, happend⟩ :=
    run_append between (s := respond (.data (crcLowByte s.crc)) s) hready hidle
  have hcrc : m.crc = n.crc := run_sameUnit (unit := true) hbetween hn hready hidle hready hidle rfl
  obtain ⟨mid, -, hm, hmid⟩ := run_answers hbetween hn hready hidle hready hidle
    fun unit => SameUnit.respond unit _ s
  refine ⟨respond (.data (crcHighByte n.crc)) n, mid, ?_, hm.responses_eq, hcrc.symm, ?_⟩
  · calc run (.command (encode .crclo) :: (between ++ [.command (encode .crchi)])) s
        = run (between ++ [.command (encode .crchi)]) (respond (.data (crcLowByte s.crc)) s) :=
          run_cons hidle ((serveInput_encode .crclo hready).trans (exec_crclo s))
      _ = run [.command (encode .crchi)] n := happend _
      _ = run [] (respond (.data (crcHighByte n.crc)) n) :=
          run_cons hnidle ((serveInput_encode .crchi hnready).trans (exec_crchi n))
      _ = .next (respond (.data (crcHighByte n.crc)) n) := run_nil hnidle
  · rw [respond_responses, hmid.responses_eq, respond_responses, hcrc]

/-- The input writes no `CRC`: it is no reset, and neither `CRCINIT` nor `CRCBYTE` (R18). -/
def KeepsCrc (input : HostInput) : Prop :=
  input ≠ .reset ∧ ∀ w, input = .command w →
    decode w ≠ .ok .crcinit ∧ ∀ b, decode w ≠ .ok (.crcbyte b)

/-- An input that is no writer of `CRC` leaves it (R18). -/
theorem serveInput_keeps_crc {input : HostInput} {s t : State} (hready : s.ready)
    (hkeeps : KeepsCrc input) (h : serveInput input s = .next t) : t.crc = s.crc := by
  obtain ⟨hreset, hwriter⟩ := hkeeps
  obtain rfl | ⟨i, rfl⟩ | ⟨cmd, e, rfl, hdecode⟩ := hostInput_cases input
  · exact absurd rfl hreset
  · rw [serveInput_encode i hready] at h
    obtain ⟨hinit, hbyte⟩ := hwriter _ rfl
    by_contra hchange
    obtain rfl | ⟨b, rfl⟩ := exec_crc_writer h hchange
    · exact hinit (decode_encode _)
    · exact hbyte b (decode_encode _)
  · cases (serveInput_illegal hready hdecode).symm.trans h
    exact takeIllegalCommand_crc ..

/-- A run without a writer of `CRC` leaves it (R18). -/
theorem run_keeps_crc {inputs : List HostInput} {s t : State} (hready : s.ready)
    (hidle : s.pending = []) (hkeeps : ∀ input ∈ inputs, KeepsCrc input)
    (h : run inputs s = .next t) : t.crc = s.crc := by
  induction inputs generalizing s with
  | nil => cases (run_nil hidle).symm.trans h; rfl
  | cons input inputs ih =>
    obtain ⟨hinput, hinputs⟩ := List.forall_mem_cons.mp hkeeps
    obtain ⟨s1, hserve, hready1, hidle1, hrun⟩ := run_cons_eq_next hready hidle h
    exact (ih hready1 hidle1 hinputs hrun).trans (serveInput_keeps_crc hready hinput hserve)

/-- A run of one input serves it and ends (R94). -/
theorem run_singleton {input : HostInput} {s t : State} (hidle : s.pending = [])
    (h : serveInput input s = .next t) : run [input] s = .next t := by
  obtain ⟨hpending, -⟩ := serveInput_keeps_channel h
  exact (run_cons hidle h).trans (run_nil (hpending.trans hidle))

/-- One input between the reads, which turns the block from `s` to `m` with the answers `mid`. -/
theorem run_splitRead_singleton {input : HostInput} {s m : State} {mid : List Response}
    (hready : s.ready) (hidle : s.pending = []) (hserve : serveInput input s = .next m)
    (hmid : m.responses = s.responses ++ mid) :
    ∃ t, run (splitRead [input]) s = .next t ∧ t.crc = m.crc ∧
      t.responses = s.responses ++ [.data (crcLowByte s.crc)] ++ mid ++
        [.data (crcHighByte m.crc)] := by
  obtain ⟨t, mid', hrun, hmid', hcrc, ht⟩ :=
    run_splitRead hready hidle (run_singleton hidle hserve)
  cases List.append_cancel_left (hmid.symm.trans hmid')
  exact ⟨t, hrun, hcrc, ht⟩

/-- Two bytes are no read of a register whose high byte or low byte is another (R91). -/
theorem splitValue_ne {lo hi : Byte} {crc : Word} (h : crcHighByte crc ≠ hi ∨ crcLowByte crc ≠ lo) :
    256 * hi.toNat + lo.toNat ≠ crc.toNat := by
  intro heq
  have hlo := lo.isLt
  refine h.elim (· (BitVec.eq_of_toNat_eq ?_)) (· (BitVec.eq_of_toNat_eq ?_))
  · rw [crcHighByte_toNat]
    omega
  · rw [crcLowByte_toNat]
    omega

/-- Where the input between changes both bytes of `CRC`, the two answers are neither value (R91). -/
theorem splitRead_is_neither_value {input : HostInput} {s m : State} {mid : List Response}
    (hready : s.ready) (hidle : s.pending = []) (hserve : serveInput input s = .next m)
    (hmid : m.responses = s.responses ++ mid) (hhigh : crcHighByte s.crc ≠ crcHighByte m.crc)
    (hlow : crcLowByte m.crc ≠ crcLowByte s.crc) :
    ∃ (s t : State) (mid : List Response) (lo hi : Byte),
      s.ready ∧ s.pending = [] ∧ run (splitRead [input]) s = .next t ∧
      t.responses = s.responses ++ [.data lo] ++ mid ++ [.data hi] ∧
      256 * hi.toNat + lo.toNat ≠ s.crc.toNat ∧ 256 * hi.toNat + lo.toNat ≠ t.crc.toNat := by
  obtain ⟨t, hrun, hcrc, ht⟩ := run_splitRead_singleton hready hidle hserve hmid
  exact ⟨s, t, mid, _, _, hready, hidle, hrun, ht, splitValue_ne (.inl hhigh),
    splitValue_ne (.inr (hcrc.symm ▸ hlow))⟩

/-- The state after reset with 0x7EEC in `CRC`, which each of the three splitters changes in both bytes. -/
def splitExample : State := writeCrc 0x7EEC#16 State.reset

/-- The high byte of the initial value is 0xFF (R63). -/
theorem crcHighByte_crcInit : crcHighByte crcInit = 0xFF#8 := by decide

/-- Settles O41: each read answers the register at its own place in the run, and 0x7EEC is changed in
both bytes by each of the three splitters. -/
theorem splitReadIsNotLatched : Obligations.SplitReadIsNotLatched := by
  refine ⟨fun between s hready hidle => ?_, fun b s hready hidle => ?_, fun input hinput => ?_⟩
  · obtain ⟨m, hm⟩ := run_completes between hready hidle
    obtain ⟨t, mid, hrun, hmid, hcrc, ht⟩ := run_splitRead hready hidle hm
    rw [crcLowByte_eq_ofNat, crcHighByte_eq_ofNat] at ht
    exact ⟨m, t, mid, hm, hrun, hmid, hcrc, ht,
      fun hkeeps => run_keeps_crc hready hidle hkeeps hm⟩
  · obtain ⟨t, hrunByte, -, ht⟩ := run_splitRead_singleton hready hidle
      ((serveInput_encode (.crcbyte b) hready).trans (exec_crcbyte b s)) (respond_responses ..)
    obtain ⟨u, hrunInit, -, hu⟩ := run_splitRead_singleton hready hidle
      ((serveInput_encode .crcinit hready).trans (exec_crcinit s)) (respond_responses ..)
    obtain ⟨v, hrunReset, -, hv⟩ := run_splitRead_singleton hready hidle (serveInput_reset s)
      (List.append_nil _).symm
    refine ⟨t, u, v, hrunByte, ?_, hrunInit, ?_, hrunReset, ?_⟩
    · rw [ht, ← crcLowByte_eq_ofNat, ← crcStep_toNat, ← crcHighByte_eq_ofNat]
      simp
    · simp [hu, ← crcLowByte_eq_ofNat, crcHighByte_crcInit]
    · simp [hv, ← crcLowByte_eq_ofNat, crcHighByte_crcInit]
  · simp only [List.mem_cons, List.not_mem_nil, or_false] at hinput
    obtain rfl | rfl | rfl := hinput
    · exact splitRead_is_neither_value (s := splitExample) (mid := [.none]) rfl rfl
        ((serveInput_encode (.crcbyte 0x01#8) rfl).trans (exec_crcbyte ..)) rfl (by decide) (by decide)
    · exact splitRead_is_neither_value (s := splitExample) (mid := [.none]) rfl rfl
        ((serveInput_encode .crcinit rfl).trans (exec_crcinit _)) rfl (by decide) (by decide)
    · exact splitRead_is_neither_value (s := splitExample) (mid := []) rfl rfl
        (serveInput_reset _) rfl (by decide) (by decide)

end Sys2Proof.Machine
end

section
/-! The host's sequence (spec/70_reset_and_hazards.md R88, R95, R96): its result as a function of the
image, in the document's own values. -/

namespace Sys2Proof.Machine

/-- The document's checksum of a payload, as a byte (R61). -/
def checksumByte (payload : List Byte) : Byte := BitVec.ofNat 8 (docChecksum payload)

/-- The low byte of the document's signature (R67). -/
def signatureLow (bytes : List Byte) : Byte := BitVec.ofNat 8 (docSignature bytes % 256)

/-- The high byte of the document's signature (R67). -/
def signatureHigh (bytes : List Byte) : Byte := BitVec.ofNat 8 (docSignature bytes / 256)

theorem checksumByte_toNat (payload : List Byte) :
    (checksumByte payload).toNat = docChecksum payload :=
  Nat.mod_eq_of_lt (Nat.lt_succ_of_le Nat.and_le_right)

theorem signatureLow_toNat (bytes : List Byte) :
    (signatureLow bytes).toNat = docSignature bytes % 256 :=
  Nat.mod_mod ..

/-- The document's signature has 16 bits, since a fold leaves it in `CRC` (R67). -/
theorem docSignature_lt (bytes : List Byte) : docSignature bytes < 65536 := by
  obtain ⟨t, ht, -⟩ := runCommands_crcfold bytes (s := State.reset) rfl rfl
  exact ht.crc_eq ▸ t.crc.isLt

theorem signatureHigh_toNat (bytes : List Byte) :
    (signatureHigh bytes).toNat = docSignature bytes / 256 :=
  Nat.mod_eq_of_lt (Nat.div_lt_of_lt_mul (docSignature_lt bytes))

/-- `CRCLO` answers the low byte of the signature that `CRC` holds (R65). -/
theorem crcLowByte_eq_signatureLow {crc : Word} {bytes : List Byte}
    (h : crc.toNat = docSignature bytes) : crcLowByte crc = signatureLow bytes := by
  rw [crcLowByte_eq_ofNat, h, signatureLow]

/-- `CRCHI` answers the high byte of the signature that `CRC` holds (R66). -/
theorem crcHighByte_eq_signatureHigh {crc : Word} {bytes : List Byte}
    (h : crc.toNat = docSignature bytes) : crcHighByte crc = signatureHigh bytes := by
  rw [crcHighByte_eq_ofNat, h, signatureHigh]

/-- A run of commands leaves the mark (R71, D18). -/
theorem runCommands_keeps_errMark {is : List Instr} {s t : State} (h : runCommands is s = .next t)
    (hready : s.ready) (hidle : s.pending = []) : t.errMark = s.errMark := by
  obtain ⟨-, hruns⟩ := legalCommandsRaiseNothing
  obtain ⟨t', rs, hrun, -, -, -, -, hmark⟩ := hruns is s hready hidle
  cases hrun.symm.trans h
  exact hmark

/-- A run of one command performs it and ends (R94). -/
theorem runCommands_singleton {i : Instr} {s t : State} (h : exec i s = .next t) (hready : s.ready)
    (hidle : s.pending = []) : runCommands [i] s = .next t := by
  obtain ⟨-, htidle⟩ := exec_keeps_ready_idle h hready hidle
  exact (runCommands_cons hready hidle h).trans (runCommands_nil htidle)

/-- The host takes the value of the last command's answer (R88). -/
theorem ask_of_runCommands {is : List Instr} {s t : State} {v : Byte}
    (h : runCommands is s = .next (respond (.data v) t)) :
    ask is s = .ok (v, respond (.data v) t) := by
  simp only [ask, h, lastData_respond_data]

/-- The block at `t` has gone on from `s` through commands that were answered `n` times, without an
`ERR`, and takes the next one. -/
structure HostExchange (n : Nat) (s t : State) : Prop where
  ready : t.ready
  idle : t.pending = []
  length_eq : t.responses.length = s.responses.length + n
  errMark_eq : t.errMark = s.errMark

theorem HostExchange.trans {n m : Nat} {s t u : State} (h : HostExchange n s t)
    (h' : HostExchange m t u) : HostExchange (n + m) s u :=
  ⟨h'.ready, h'.idle, by rw [h'.length_eq, h.length_eq, Nat.add_assoc],
    h'.errMark_eq.trans h.errMark_eq⟩

/-- Step 2 of R88: the checksum fold answers the document's checksum, after `(N - 3) + 2`
commands. -/
theorem ask_checksum (payload : List Byte) {s : State} (hready : s.ready) (hidle : s.pending = []) :
    ∃ t, ask (ckfold payload ++ [.cksum]) s = .ok (checksumByte payload, t) ∧
      HostExchange (payload.length + 2) s t := by
  obtain ⟨t, ht, hrun⟩ := runCommands_ckfold_cksum payload hready hidle
  have hacc : t.acc.toNat = (docChecksumLoop (0, 0) payload.reverse).1 := congrArg Prod.fst ht.sums_eq
  rw [patchByte_eq_docChecksum hacc, ← checksumByte] at hrun
  exact ⟨_, ask_of_runCommands hrun, ht.ready, ht.idle, by simp [ht.responses_eq, Nat.add_assoc],
    runCommands_keeps_errMark hrun hready hidle⟩

/-- Step 4 of R88: the signature fold and the two reads answer the document's signature byte by byte,
after `(N - 2) + 3` commands. -/
theorem ask_signature (bytes : List Byte) {s : State} (hready : s.ready) (hidle : s.pending = []) :
    ∃ t u, ask (crcfold bytes ++ [.crclo]) s = .ok (signatureLow bytes, t) ∧
      ask [.crchi] t = .ok (signatureHigh bytes, u) ∧ HostExchange (bytes.length + 3) s u := by
  obtain ⟨m, hm, hfold⟩ := runCommands_crcfold bytes hready hidle
  have hlo := (hfold [.crclo]).trans (runCommands_singleton (exec_crclo m) hm.ready hm.idle)
  have hhi := runCommands_singleton (exec_crchi (respond (.data (crcLowByte m.crc)) m)) hm.ready
    hm.idle
  have hmarkLo := runCommands_keeps_errMark hlo hready hidle
  have hmarkHi := runCommands_keeps_errMark hhi hm.ready hm.idle
  rw [crcLowByte_eq_signatureLow hm.crc_eq] at hlo hhi
  rw [respond_crc, crcHighByte_eq_signatureHigh hm.crc_eq] at hhi
  exact ⟨_, _, ask_of_runCommands hlo, ask_of_runCommands hhi, hm.ready, hm.idle,
    by simp [hm.responses_eq, Nat.add_assoc], hmarkHi.trans hmarkLo⟩

/-- What R88 asks of the host's sequence on an image with the given header bytes and payload, with the
block's state at its end. -/
def documentPatch (oldLo oldHi oldCk : Byte) (payload : List Byte) (block : State) : PatchResult :=
  let c := checksumByte payload
  let lo := signatureLow (c :: payload)
  let hi := signatureHigh (c :: payload)
  { image := lo :: hi :: c :: payload, oldLo := oldLo, oldHi := oldHi, oldCk := oldCk, lo := lo,
    hi := hi, c := c, ckChanged := c != oldCk, sigChanged := lo != oldLo || hi != oldHi,
    block := block }

/-- A byte that is written where it differs holds the new value in any case (R88). -/
theorem ite_bne_eq (new old : Byte) : (if new != old then new else old) = new := by
  split
  next => rfl
  next h => exact (by simpa using h : new = old).symm

/-- Two bytes that are written where one of them differs hold the new values in any case (R88). -/
theorem ite_bne_or_bne_eq (lo oldLo hi oldHi : Byte) :
    (if lo != oldLo || hi != oldHi then lo else oldLo) = lo ∧
      (if lo != oldLo || hi != oldHi then hi else oldHi) = hi := by
  split
  next => exact ⟨rfl, rfl⟩
  next h =>
    obtain ⟨hlo, hhi⟩ : lo = oldLo ∧ hi = oldHi := by simpa using h
    exact ⟨hlo.symm, hhi.symm⟩

/-- On a ready, idle block the host's sequence gives the document's result, in `2N` commands (R88). -/
theorem hostPatch_eq (oldLo oldHi oldCk : Byte) (payload : List Byte) {s : State} (hready : s.ready)
    (hidle : s.pending = []) :
    ∃ block, hostPatch (oldLo :: oldHi :: oldCk :: payload) s =
        .ok (documentPatch oldLo oldHi oldCk payload block) ∧
      HostExchange (2 * (payload.length + 3)) s block := by
  obtain ⟨s1, hck, h1⟩ := ask_checksum payload hready hidle
  obtain ⟨s2, s3, hlo, hhi, h3⟩ := ask_signature (checksumByte payload :: payload) h1.ready h1.idle
  have hcount : payload.length + 2 + ((checksumByte payload :: payload).length + 3) =
      2 * (payload.length + 3) := by
    rw [List.length_cons]
    omega
  obtain ⟨hbyte0, hbyte1⟩ := ite_bne_or_bne_eq (signatureLow (checksumByte payload :: payload)) oldLo
    (signatureHigh (checksumByte payload :: payload)) oldHi
  refine ⟨s3, ?_, hcount ▸ h1.trans h3⟩
  simp only [hostPatch, hck, ite_bne_eq, hlo, hhi, hbyte0, hbyte1, documentPatch]

/-- Settles O45: the result is the document's, and its bytes have the document's values. -/
theorem hostPatchFollowsTheDocument : Obligations.HostPatchFollowsTheDocument := by
  intro oldLo oldHi oldCk payload s hready hidle
  obtain ⟨block, hpatch, hblock⟩ := hostPatch_eq oldLo oldHi oldCk payload hready hidle
  exact ⟨_, hpatch, rfl, rfl, rfl, checksumByte_toNat payload, signatureLow_toNat _,
    signatureHigh_toNat _, rfl, rfl, rfl, hblock.length_eq, hblock.errMark_eq⟩

/-- Where the host's sequence succeeds on a ready, idle block, the image has its three header bytes and
the result is the document's (R30, R88). -/
theorem eq_documentPatch_of_hostPatch {img : List Byte} {s : State} {r : PatchResult}
    (hready : s.ready) (hidle : s.pending = []) (h : hostPatch img s = .ok r) :
    ∃ oldLo oldHi oldCk payload block, r = documentPatch oldLo oldHi oldCk payload block := by
  match img with
  | [] | [_] | [_, _] => cases h
  | oldLo :: oldHi :: oldCk :: payload =>
    obtain ⟨block, hpatch, -⟩ := hostPatch_eq oldLo oldHi oldCk payload hready hidle
    cases hpatch.symm.trans h
    exact ⟨oldLo, oldHi, oldCk, payload, block, rfl⟩

/-- Settles O46: the second run computes the same three bytes from the same payload, and finds them in
the header. -/
theorem hostPatchIsIdempotent : Obligations.HostPatchIsIdempotent := by
  refine ⟨fun img s s2 r hready hidle hready2 hidle2 hpatch => ?_,
    fun b0 b1 b2 s hready hidle => ?_⟩
  · obtain ⟨oldLo, oldHi, oldCk, payload, block, rfl⟩ :=
      eq_documentPatch_of_hostPatch hready hidle hpatch
    obtain ⟨block2, hpatch2, -⟩ := hostPatch_eq (signatureLow (checksumByte payload :: payload))
      (signatureHigh (checksumByte payload :: payload)) (checksumByte payload) payload hready2 hidle2
    exact ⟨_, hpatch2, by simp [documentPatch], by simp [documentPatch], rfl⟩
  · obtain ⟨block, hpatch, -⟩ := hostPatch_eq b0 b1 b2 [] hready hidle
    have hc : checksumByte [] = 0x00#8 := by decide
    have hlo : signatureLow [checksumByte []] = 0xF0#8 := by decide
    have hhi : signatureHigh [checksumByte []] = 0xE1#8 := by decide
    exact ⟨_, hpatch, hc, hlo, hhi⟩

/-- Settles O47: the document's values are functions of the payload. -/
theorem headerBytesDoNotEnterTheResult : Obligations.HeaderBytesDoNotEnterTheResult := by
  intro a0 a1 a2 b0 b1 b2 payload s s2 hready hidle hready2 hidle2
  obtain ⟨block, hpatch, -⟩ := hostPatch_eq a0 a1 a2 payload hready hidle
  obtain ⟨block2, hpatch2, -⟩ := hostPatch_eq b0 b1 b2 payload hready2 hidle2
  exact ⟨_, _, hpatch, hpatch2, rfl, rfl, rfl, rfl⟩

end Sys2Proof.Machine
end

section
/-! The bookkeeping invariant (spec/60_exceptions.md R70, R74; spec/70_reset_and_hazards.md R82, R94;
log 4, log 5): a served input adds only lawful responses, leaves the mark true to them, and leaves a
block that has been reset. -/

namespace Sys2Proof.Machine

/-- Settles O10: the channel alone decides that a step waits (R94, log 2). -/
theorem idleStepChangesNothing : Obligations.IdleStepChangesNothing := by
  intro s hidle
  simp only [step, serveNext, hidle]

/-- Where nothing has been answered, a clear mark is the true one (D18). -/
theorem State.inv_of_responses_nil {s : State} (hresponses : s.responses = [])
    (hmark : s.errMark = false) : s.Inv := by
  refine ⟨?_, ?_, fun _ => hresponses⟩
  · rw [hmark, hresponses, List.any_nil]
  · rw [hresponses, List.all_nil]

/-- Settles O25: neither state has answered anything (R26, R82). -/
theorem resetHasTheInvariant : Obligations.ResetHasTheInvariant :=
  ⟨State.inv_of_responses_nil State.reset_responses State.reset_errMark,
    State.inv_of_responses_nil State.powerUp_responses State.powerUp_errMark⟩

/-- Only an `ERR` can be unlawful (R47, R70). -/
theorem Response.lawful_of_isErr_eq_false {r : Response} (h : r.isErr = false) : r.lawful = true := by
  cases r with
  | none => rfl
  | data v => rfl
  | err code cmd => cases h

/-- The `ERR` of a word that the decoder rejects is lawful (R70). -/
theorem Response.lawful_err {cmd : Word} {e : IllegalReason} (h : decode cmd = .error e) :
    (Response.err illegalCommandCode cmd).lawful = true := by
  simp [Response.lawful, h]

/-- A served input adds lawful responses to the record, and to the mark what they say (R47, R70, D18). -/
theorem serveInput_records_lawful {input : HostInput} {s t : State}
    (h : serveInput input s = .next t) :
    ∃ rs, Records rs s t ∧ rs.all Response.lawful = true := by
  obtain ⟨-, rfl⟩ | ⟨cmd, -, -, hcmd⟩ := serveInput_cases h
  · exact ⟨[], Records.takeReset s, List.all_nil⟩
  · obtain ⟨i, -, hexec⟩ | ⟨⟨e, hdecode⟩, rfl⟩ := runCommand_cases hcmd
    · obtain ⟨r, hresponses, hanswers⟩ := exec_responds hexec
      have hlawful := Response.lawful_of_isErr_eq_false (Response.isErr_of_answers hanswers)
      exact ⟨[r], Records.exec hexec hanswers hresponses, by simp [hlawful]⟩
    · exact ⟨_, Records.takeIllegalCommand cmd s, by simp [Response.lawful_err hdecode]⟩

/-- Lawful additions to the record keep the invariant once the block has been reset. -/
theorem Records.keeps_inv {rs : List Response} {s t : State} (h : Records rs s t)
    (hlawful : rs.all Response.lawful = true) (hready : t.ready) (hinv : s.Inv) : t.Inv := by
  obtain ⟨hmark, hall, -⟩ := hinv
  refine ⟨?_, ?_, fun hseen => absurd hready (Bool.eq_false_iff.mp hseen)⟩
  · rw [h.errMark_eq, h.responses_eq, List.any_append, hmark]
  · rw [h.responses_eq, List.all_append, hall, hlawful, Bool.and_self]

/-- Every served input keeps the invariant, a command being served only after a reset (R82). -/
theorem serveInput_keeps_inv {input : HostInput} {s t : State} (h : serveInput input s = .next t)
    (hinv : s.Inv) : t.Inv := by
  obtain ⟨rs, hrecords, hlawful⟩ := serveInput_records_lawful h
  obtain ⟨-, hready⟩ := serveInput_keeps_channel h
  exact hrecords.keeps_inv hlawful hready hinv

/-- Settles O24: a step waits or serves one input, and the invariant does not look at the channel. -/
theorem stepKeepsTheInvariant : Obligations.StepKeepsTheInvariant := by
  intro s t hinv hstep
  cases hpending : s.pending with
  | nil =>
    cases (idleStepChangesNothing s hpending).symm.trans hstep
    exact hinv
  | cons input rest =>
    have hserve : serveInput input (withPending rest s) = .next t :=
      (step_of_pending_cons hpending).symm.trans hstep
    exact serveInput_keeps_inv hserve hinv

end Sys2Proof.Machine
end
